-- ==== Sys2Proof/Word.lean ====
section
/-! DEFINITION. The word types of the machine (00_scope.md R7, R10 to R12). All values are unsigned. -/

namespace Sys2Proof

/-- One byte: a memory cell, a general register, a timer (R21, R28, R35). -/
abbrev Byte := BitVec 8

/-- Sixteen bits: an instruction word, `PC`, `I`, a stack slot (R23, R25, R26, R70). -/
abbrev Word := BitVec 16

/-- The twelve-bit address field `nnn` of an instruction (R72). -/
abbrev Addr12 := BitVec 12

/-- The index of a general register, 0x0 to 0xF (R21, R73). -/
abbrev RegIx := Fin 16

/-- A logical key, 0x0 to 0xF (R30). -/
abbrev KeyIx := Fin 16

/-- The height of a sprite in bytes, 0 to 15: the field `n` (R73, R107). -/
abbrev SpriteLen := Fin 16

end Sys2Proof
end

