-- ==== Sys2Proof/Syntax.lean ====
section
/-! DEFINITION. The instruction set: one constructor per row of 30_encoding.md R75, in the table's order. -/

namespace Sys2Proof

/-- An instruction. Field letters are those of R11: `nnn` an address, `kk` a byte, `x` and `y` registers, `n` a sprite
height. -/
inductive Instr where
  /-- 00E0 CLS (R106) -/
  | cls
  /-- 00EE RET (R123) -/
  | ret
  /-- 0nnn SYS nnn, other than 00E0 and 00EE (R124) -/
  | sys (nnn : Addr12)
  /-- 1nnn JP nnn (R125) -/
  | jp (nnn : Addr12)
  /-- 2nnn CALL nnn (R126) -/
  | call (nnn : Addr12)
  /-- 3xkk SE Vx, kk (R127) -/
  | seImm (x : RegIx) (kk : Byte)
  /-- 4xkk SNE Vx, kk (R128) -/
  | sneImm (x : RegIx) (kk : Byte)
  /-- 5xy0 SE Vx, Vy (R129) -/
  | seReg (x y : RegIx)
  /-- 6xkk LD Vx, kk (R141) -/
  | ldImm (x : RegIx) (kk : Byte)
  /-- 7xkk ADD Vx, kk (R142) -/
  | addImm (x : RegIx) (kk : Byte)
  /-- 8xy0 LD Vx, Vy (R143) -/
  | ldReg (x y : RegIx)
  /-- 8xy1 OR Vx, Vy (R144) -/
  | orReg (x y : RegIx)
  /-- 8xy2 AND Vx, Vy (R145) -/
  | andReg (x y : RegIx)
  /-- 8xy3 XOR Vx, Vy (R146) -/
  | xorReg (x y : RegIx)
  /-- 8xy4 ADD Vx, Vy (R147) -/
  | addReg (x y : RegIx)
  /-- 8xy5 SUB Vx, Vy (R148) -/
  | subReg (x y : RegIx)
  /-- 8xy6 SHR Vx, with a `y` field that is decoded and ignored (R149) -/
  | shr (x y : RegIx)
  /-- 8xy7 SUBN Vx, Vy (R150) -/
  | subn (x y : RegIx)
  /-- 8xyE SHL Vx, with a `y` field that is decoded and ignored (R151) -/
  | shl (x y : RegIx)
  /-- 9xy0 SNE Vx, Vy (R130) -/
  | sneReg (x y : RegIx)
  /-- Annn LD I, nnn (R170) -/
  | ldI (nnn : Addr12)
  /-- Bnnn JP V0, nnn (R131) -/
  | jpV0 (nnn : Addr12)
  /-- Cxkk RND Vx, kk (R152) -/
  | rnd (x : RegIx) (kk : Byte)
  /-- Dxyn DRW Vx, Vy, n (R107) -/
  | drw (x y : RegIx) (n : SpriteLen)
  /-- Ex9E SKP Vx (R190) -/
  | skp (x : RegIx)
  /-- ExA1 SKNP Vx (R191) -/
  | sknp (x : RegIx)
  /-- Fx07 LD Vx, DT (R192) -/
  | ldVxDt (x : RegIx)
  /-- Fx0A LD Vx, K (R193) -/
  | ldVxK (x : RegIx)
  /-- Fx15 LD DT, Vx (R194) -/
  | ldDtVx (x : RegIx)
  /-- Fx18 LD ST, Vx (R195) -/
  | ldStVx (x : RegIx)
  /-- Fx1E ADD I, Vx (R171) -/
  | addI (x : RegIx)
  /-- Fx29 LD F, Vx (R172) -/
  | ldF (x : RegIx)
  /-- Fx33 LD B, Vx (R173) -/
  | ldB (x : RegIx)
  /-- Fx55 LD [I], Vx (R174) -/
  | storeRegs (x : RegIx)
  /-- Fx65 LD Vx, [I] (R175) -/
  | loadRegs (x : RegIx)
  deriving DecidableEq, Repr

end Sys2Proof
end

