-- ==== Sys2Proof/Config.lean ====
section
/-! DEFINITION. The implementation parameters of 00_scope.md R7 that the rules name, and the free value RANDOM. The font,
R7's other parameter, stands in Machine/Font.lean. -/

namespace Sys2Proof

/-- `MEM_SIZE`: addresses 0x000 to 0xFFF (R7, R35). -/
abbrev Config.memSize : Nat := 4096

/-- `PROGRAM_BASE`: where a program image is loaded and where `PC` starts (R7, R41, R212). -/
abbrev Config.programBase : Nat := 0x200

/-- `PROGRAM_MAX`: the longest image `load_program` takes (R7, R212). -/
abbrev Config.programMax : Nat := 3584

/-- `FONT_GLYPH_BYTES`: bytes of one glyph (R7, R43, R172). -/
abbrev Config.fontGlyphBytes : Nat := 5

/-- `FONT_GLYPHS` times `FONT_GLYPH_BYTES`: bytes of the whole font (R7, R43). -/
abbrev Config.fontBytes : Nat := 80

/-- `STACK_DEPTH` (R7, R26). -/
abbrev Config.stackDepth : Nat := 16

/-- `WIDTH`: pixels in a row of the framebuffer (R7, R34). -/
abbrev Config.width : Nat := 64

/-- `HEIGHT`: rows of the framebuffer (R7, R34). -/
abbrev Config.height : Nat := 32

/-- `RANDOM`: the byte that the `k`-th executed Cxkk draws (R7, R40, R152). It has no body, so nothing can be proved of
its value: the spec makes it "any byte 0x00 to 0xFF" with no law. DESIGN CHOICE, safe: assumption log entry 2. -/
opaque Config.randomByte : Nat → Byte

end Sys2Proof
end

