-- ==== Sys2Proof/Machine/Flags.lean ====
section
/-! DEFINITION. The flag values that go to VF (42_registers_alu.md R140) and the exact-then-narrow arithmetic of R12. -/

namespace Sys2Proof.Machine

/-- `bool2bit(c)`: 1 if `c` holds, else 0 (R12). -/
def bool2bit (c : Bool) : Byte := if c then 1 else 0

/-- `trunc_8` of a natural number (R12). -/
def trunc8 (n : Nat) : Byte := BitVec.ofNat 8 n

/-- `trunc_16` of a natural number (R12). -/
def trunc16 (n : Nat) : Word := BitVec.ofNat 16 n

/-- The true sum of two bytes, 0 to 510 (R147). -/
def trueSum (a b : Byte) : Nat := a.toNat + b.toNat

/-- `trunc_8(a - b)` of the mathematical difference (R12, R148). -/
def truncDiff (a b : Byte) : Byte := BitVec.ofInt 8 ((a.toNat : Int) - (b.toNat : Int))

/-- Carry of 8xy4: the true sum exceeds 255 (R140, R147). -/
def carryFlag (a b : Byte) : Byte := bool2bit (trueSum a b > 255)

/-- No-borrow of `a - b`: the minuend is at least the subtrahend (R140, R148, R150). -/
def noBorrowFlag (a b : Byte) : Byte := bool2bit (a.toNat ≥ b.toNat)

/-- The bit 8xy6 shifts out (R149). -/
def shiftedOutLow (a : Byte) : Byte := a &&& 1

/-- The bit 8xyE shifts out (R151). -/
def shiftedOutHigh (a : Byte) : Byte := (a >>> 7) &&& 1

end Sys2Proof.Machine
end

