-- ==== Sys2Proof/Machine/State.lean ====
section
/-! DEFINITION. The state of the block (10_state.md R20), its reset value (R41) and the reasons a step can stop. -/

namespace Sys2Proof.Machine

/-- The fatal conditions (60_exceptions.md R230). -/
inductive FaultCause where
  /-- A word that no row of R75 matches. -/
  | illegalOpcode
  /-- 2nnn with 16 entries on the stack. -/
  | stackOverflow
  /-- 00EE with an empty stack. -/
  | stackUnderflow
  /-- A fetch at `PC` with `PC + 2 > 4096`. -/
  | fetchOutOfBounds
  /-- Dxyn, Fx33, Fx55 or Fx65 with `I + len > 4096`. -/
  | dataOutOfBounds
  /-- Ex9E or ExA1 with `V[x] > 0x0F`. -/
  | keyIndexOutOfRange
  /-- `load_program` with an image longer than 3584 bytes. -/
  | programTooLarge
  deriving DecidableEq, Repr

/-- The kind of a memory access (R54). -/
inductive AccessKind where
  | fetch
  | read
  | write
  deriving DecidableEq, Repr

/-- The `info` of a fault record (R33, R230). -/
inductive FaultInfo where
  /-- Empty. -/
  | empty
  /-- The address, length and kind of an out-of-bounds access. -/
  | access (addr : Word) (len : Nat) (kind : AccessKind)
  /-- The key index of a key-index fault: `V[x]`. -/
  | keyIndex (k : Byte)
  /-- The image length of a load fault. -/
  | imageLength (len : Nat)
  deriving DecidableEq, Repr

/-- The fault record `f` of `Halted(f)` (R33, R232). -/
structure FaultRecord where
  /-- The cause. -/
  cause : FaultCause
  /-- The address of the faulting instruction or fetch; 0x200 for a load fault. -/
  pc : Word
  /-- The instruction word; none for a fetch fault and a load fault. -/
  opcode : Option Word
  /-- What R230 records beside them. -/
  info : FaultInfo
  deriving DecidableEq, Repr

/-- `Run`, the control state (R31). -/
inductive RunState where
  /-- A step fetches and executes one instruction. -/
  | running
  /-- An Fx0A waits for a key, which goes to `V[x]`. -/
  | awaitingKey (x : RegIx)
  /-- A fault has occurred: the state is frozen. -/
  | halted (f : FaultRecord)
  deriving DecidableEq, Repr

/-- Memory: the cells that differ from what an unlisted address reads as (`Memory.unlisted` of Machine/Ops.lean), strictly
rising by address (`Memory.wf`). -/
abbrev Memory := List Host.Cell

/-- The framebuffer grid: 32 rows of 64 cells, top row and left column first; `true` is a set pixel (R34). -/
abbrev Grid := Vector (Vector Bool 64) 32

/-- The state of the block (R20). Every field but `draws` is an item of R20's tuple. -/
structure State where
  /-- `Mem[0..4095]` (R35) -/
  mem : Memory
  /-- `V[0..15]` (R21) -/
  v : Vector Byte 16
  /-- `I` (R25) -/
  i : Word
  /-- `PC` (R23) -/
  pc : Word
  /-- `Stack[0..15]` (R26) -/
  stack : Vector Word 16
  /-- `SP`, the number of entries on the stack, 0 to 16 (R27) -/
  sp : Fin 17
  /-- `DT` (R28) -/
  dt : Byte
  /-- `ST` (R29) -/
  st : Byte
  /-- `Key[0..15]`: `true` means the key is down (R30) -/
  key : Vector Bool 16
  /-- `FB[0..31][0..63]` (R34) -/
  fb : Grid
  /-- `Run` (R31) -/
  run : RunState
  /-- `Delivered` (R32) -/
  delivered : Option KeyIx
  /-- The model's own: how many bytes of RANDOM were drawn (assumption log entry 2) -/
  draws : Nat
  deriving DecidableEq, Repr

/-- Why a step stops without a next state by a fault of the model. It has no constructor: every fatal condition of R230 has
an entry that the spec describes (R94, R235), so it is a next state with `run` Halted and never an outcome of this type
(assumption log entry 3). -/
inductive Fault where
  deriving DecidableEq, Repr

/-- Why the model gives no meaning. -/
inductive Refusal where
  /-- An instruction without a meaning yet: raised by no arm of `exec` now. Safe. -/
  | notModelled (mnemonic : String)
  /-- `update_keypad` or `deliver_key_press` with a key identifier above 0xF: raised by the host commands of
  Machine/Commands.lean, since R218 refuses such a command. Safe. -/
  | keyIdentifier (k : Nat)
  /-- `load_program` a second time or after a step: raised by the host command of Machine/Commands.lean, since R218 refuses
  it. Safe. -/
  | loadNotAdmitted
  deriving DecidableEq, Repr

/-- Construction, the block's only reset (R41, R260), with the default FONT: an unlisted address reads as its reset
byte, so no cell is listed. `State.construct` of Machine/Ops.lean takes FONT as its argument. -/
def State.reset : State where
  mem := []
  v := Vector.replicate 16 0
  i := 0
  pc := 0x200
  stack := Vector.replicate 16 0
  sp := 0
  dt := 0
  st := 0
  key := Vector.replicate 16 false
  fb := Vector.replicate 32 (Vector.replicate 64 false)
  run := .running
  delivered := none
  draws := 0

end Sys2Proof.Machine
end

