-- ==== Sys2Proof/Machine/Ops.lean ====
section
/-! DEFINITION. The named operations over memory and registers, the range check (20_memory.md R54), construction (R41) and
taking a fault (35_execution_cycle.md R94). -/

namespace Sys2Proof.Machine

/-- What an address that no cell lists reads as: its reset contents (R42), the default font byte at 0x000 to 0x04F and 0x00
elsewhere. -/
def Memory.unlisted (a : Nat) : Byte := fontDefault.getD a 0

/-- The canonical form of a memory: addresses strictly rising, all below `MEM_SIZE`, and no cell equal to what its address
reads as unlisted. -/
abbrev Memory.wf (m : Memory) : Prop :=
  m.Pairwise (fun c d => c.1 < d.1) ∧ ∀ c ∈ m, c.1 < Config.memSize ∧ c.2 ≠ Memory.unlisted c.1

/-- The byte at address `a` (R35, R58). -/
def Memory.read : Memory → Nat → Byte
  | [], a => Memory.unlisted a
  | (k, b) :: m, a => if a = k then b else Memory.read m a

/-- `c` put in front of `m`, unless it is what its address reads as unlisted. -/
def Memory.consCell (c : Host.Cell) (m : Memory) : Memory := if c.2 = Memory.unlisted c.1 then m else c :: m

/-- Write one byte, keeping the canonical form. -/
def Memory.write : Memory → Nat → Byte → Memory
  | [], a, b => Memory.consCell (a, b) []
  | (k, c) :: m, a, b =>
    if a < k then Memory.consCell (a, b) ((k, c) :: m)
    else if a = k then Memory.consCell (a, b) m
    else (k, c) :: Memory.write m a b

/-- `MemRead(a, n)`: the `n` bytes from `a` on (R13). -/
def Memory.readBytes (m : Memory) (a : Nat) : Nat → List Byte
  | 0 => []
  | n + 1 => m.read a :: Memory.readBytes m (a + 1) n

/-- `MemWrite(a, n, bs)`: the bytes of `bs` to `a`, `a + 1`, … in order (R13). -/
def Memory.writeBytes (m : Memory) (a : Nat) : List Byte → Memory
  | [] => m
  | b :: bs => Memory.writeBytes (m.write a b) (a + 1) bs

/-- Construction with the parameter FONT: the reset state with the bytes of `font` from address 0 (R41, R43, R44). -/
def State.construct (font : List Byte) : State :=
  { State.reset with mem := Memory.writeBytes [] 0 (font.take Config.fontBytes) }

/-- `V[x]` (R21). -/
def State.reg (s : State) (x : RegIx) : Byte := s.v[x.val]

/-- `V[x] <- b` (R21). -/
def State.setReg (s : State) (x : RegIx) (b : Byte) : State := { s with v := s.v.set x.val b }

/-- `V[j] <- bs[0]`, `V[j + 1] <- bs[1]`, …; a block that starts at V0 has at most 16 bytes (R175). -/
def writeRegs (v : Vector Byte 16) (j : Nat) : List Byte → Vector Byte 16
  | [] => v
  | b :: bs => writeRegs (v.setIfInBounds j b) (j + 1) bs

/-- `for j from 0: V[j] <- bs[j]` (R175). -/
def State.setRegs (s : State) (bs : List Byte) : State := { s with v := writeRegs s.v 0 bs }

/-- The list V[0], …, V[x] (R174). -/
def State.regsUpTo (s : State) (x : RegIx) : List Byte := s.v.toList.take (x.val + 1)

/-- `PC <- target`, unchecked (R24, R122). -/
def State.setPc (s : State) (target : Word) : State := { s with pc := target }

/-- `PC <- PC + 2`, a 16-bit add: the advance before dispatch and a skip taken (R92, R98). -/
def State.advance (s : State) : State := s.setPc (s.pc + 2)

/-- A skip, taken when `c` holds (R98). -/
def State.skipIf (s : State) (c : Bool) : State := if c then s.advance else s

/-- `I <- a` (R25). -/
def State.setI (s : State) (a : Word) : State := { s with i := a }

/-- `DT <- b` (R28). -/
def State.setDt (s : State) (b : Byte) : State := { s with dt := b }

/-- `ST <- b` (R29). -/
def State.setSt (s : State) (b : Byte) : State := { s with st := b }

/-- The memory becomes `m`. -/
def State.setMem (s : State) (m : Memory) : State := { s with mem := m }

/-- The framebuffer becomes `g`. -/
def State.setFb (s : State) (g : Grid) : State := { s with fb := g }

/-- The key levels become `k` (R214). -/
def State.setKey (s : State) (k : Vector Bool 16) : State := { s with key := k }

/-- `Run <- r` (R31). -/
def State.setRun (s : State) (r : RunState) : State := { s with run := r }

/-- `Delivered <- d` (R32). -/
def State.setDelivered (s : State) (d : Option KeyIx) : State := { s with delivered := d }

/-- `Random()`: the byte of this draw (R13, R152). -/
def State.randomByte (s : State) : Byte := Config.randomByte s.draws

/-- One draw of RANDOM is consumed (R152, D31). -/
def State.drawn (s : State) : State := { s with draws := s.draws + 1 }

/-- `Push(v)` after its check, on a stack with room: `Stack[SP] <- v`, `SP <- SP + 1` (R120). -/
def State.push (s : State) (w : Word) : State :=
  { s with stack := s.stack.setIfInBounds s.sp.val w, sp := ⟨min (s.sp.val + 1) 16, by omega⟩ }

/-- The slot `Pop()` returns on a stack that is not empty: `Stack[SP - 1]` (R121). -/
def State.top (s : State) : Word := s.stack[s.sp.val - 1]'(by have := s.sp.isLt; omega)

/-- `SP <- SP - 1` on a stack that is not empty; the popped slot keeps its value (R121, R26). -/
def State.pop (s : State) : State :=
  { s with sp := ⟨s.sp.val - 1, by have := s.sp.isLt; omega⟩ }

/-- The code of a cause, in the spec's own numbering (R230). -/
def faultCode : FaultCause → Nat
  | .illegalOpcode => 1
  | .stackOverflow => 2
  | .stackUnderflow => 3
  | .fetchOutOfBounds => 4
  | .dataOutOfBounds => 5
  | .keyIndexOutOfRange => 6
  | .programTooLarge => 7

/-- The test of `CheckRange(a, len)`: the range lies below `MEM_SIZE` (R54). -/
def inRange (a : Word) (len : Nat) : Bool := a.toNat + len ≤ Config.memSize

/-- `Run <- Halted(f)`; nothing else changes (R94, R96). -/
def State.halt (s : State) (f : FaultRecord) : State := s.setRun (.halted f)

/-- TAKING A FAULT in a step (R94, R232, R235): `s` is the state the step began in, so every write of the step is discarded,
`PC` still holds the faulting instruction's address, and the record holds that address. -/
def State.takeFault (s : State) (cause : FaultCause) (opcode : Option Word) (info : FaultInfo) : State :=
  s.halt { cause := cause, pc := s.pc, opcode := opcode, info := info }

/-- The fault of a decoded instruction, whose word was fetched (R94). -/
def raiseFault (s : State) (w : Word) (cause : FaultCause) (info : FaultInfo) : Host.Outcome State Fault Refusal :=
  .next (s.takeFault cause (some w) info)

/-- `CheckRange(I, len, kind)` of the instruction word `w`, then its effect `done` (R54, R176). -/
def checkedAtI (s : State) (w : Word) (len : Nat) (kind : AccessKind) (done : State) :
    Host.Outcome State Fault Refusal :=
  if inRange s.i len then .next done else raiseFault s w .dataOutOfBounds (.access s.i len kind)

end Sys2Proof.Machine
end

