-- ==== Sys2Proof/Machine/Operands.lean ====
section
/-! DEFINITION. The operand forms: immediate fields (30_encoding.md R73), the flag register, the block at `I`
(43_index_memory.md R176), the key of Ex9E and ExA1 (44_timers_keypad.md R190), decimal digits and glyph addresses. -/

namespace Sys2Proof.Machine

/-- VF, the flag register: `V[15]` (R22, R38). -/
abbrev vf : RegIx := 15

/-- `zext_16(nnn)` (R73). -/
def zextNnn (nnn : Addr12) : Word := nnn.setWidth 16

/-- `zext_16(b)` (R12). -/
def zextByte (b : Byte) : Word := b.setWidth 16

/-- The address of byte 0 of the block at `I` (R176). -/
def State.atI (s : State) : Nat := s.i.toNat

/-- The address of the glyph of `b`: the whole byte times 5 (R172). -/
def glyphAddr (b : Byte) : Word := trunc16 (b.toNat * Config.fontGlyphBytes)

/-- The decimal digits of `b`: hundreds, tens, ones (R173). -/
def bcdDigits (b : Byte) : List Byte := [trunc8 (b.toNat / 100), trunc8 (b.toNat / 10 % 10), trunc8 (b.toNat % 10)]

/-- The column of a sprite: `V[x] mod 64` (R107). -/
def State.spriteCol (s : State) (x : RegIx) : Nat := (s.reg x).toNat % Config.width

/-- The row of a sprite: `V[y] mod 32` (R107). -/
def State.spriteRow (s : State) (y : RegIx) : Nat := (s.reg y).toNat % Config.height

/-- `Key[k]` for a register value `k`, or none above 0x0F (R190). -/
def State.keyLevel (s : State) (k : Byte) : Option Bool := s.key[k.toNat]?

/-- The key-index check of the instruction word `w` and register `x`, then `done` of the key's level (R190, R191). -/
def checkedKey (s : State) (w : Word) (x : RegIx) (done : Bool → State) : Host.Outcome State Fault Refusal :=
  match s.keyLevel (s.reg x) with
  | some down => .next (done down)
  | none => raiseFault s w .keyIndexOutOfRange (.keyIndex (s.reg x))

end Sys2Proof.Machine
end

