-- ==== Sys2Proof/Machine/Cycle.lean ====
section
/-! DEFINITION. Fetching (35_execution_cycle.md R92), the wait step (R91), and placing a word where the next fetch reads it. -/

namespace Sys2Proof.Machine

/-- The word at `PC`, big-endian, or none when the fetch lies outside memory (R92, R71, R54). -/
def State.fetch (s : State) : Option Word :=
  if inRange s.pc 2 then some (wordOfBytes (s.mem.read s.pc.toNat) (s.mem.read (s.pc.toNat + 1))) else none

/-- A step in the key-wait state (R91). -/
def State.waitStep (s : State) (x : RegIx) : State :=
  match s.delivered with
  | none => s
  | some k => ((s.setReg x (BitVec.ofNat 8 k.val)).setDelivered none).setRun .running

/-- `s` made ready to fetch: Running, with no delivered key left over (R31, R32), and `PC` at `PROGRAM_BASE` if it held no
address that can be fetched. -/
def State.readyToFetch (s : State) : State :=
  let t := match s.run with
    | .running => s
    | .awaitingKey _ | .halted _ => (s.setRun .running).setDelivered none
  if inRange t.pc 2 then t else t.setPc (BitVec.ofNat 16 Config.programBase)

/-- `w` stored where the next step fetches (R71), in the state made ready to fetch. -/
def State.placeWord (s : State) (w : Word) : State :=
  let t := s.readyToFetch
  t.setMem (t.mem.writeBytes t.pc.toNat [highByte w, lowByte w])

end Sys2Proof.Machine
end

