-- ==== Sys2Proof/Machine/ControlFlow.lean ====
section
/-! DEFINITION. Control transfer (41_control_flow.md). A meaning takes the state whose `PC` is the instruction's own address and
advances it (35_execution_cycle.md R92, R97). -/

namespace Sys2Proof.Machine

/-- 00EE RET (R123, R121). -/
def execRet (s : State) : Host.Outcome State Fault Refusal :=
  if s.sp.val = 0 then raiseFault s (encode .ret) .stackUnderflow .empty else .next (s.pop.setPc s.top)

/-- 0nnn SYS nnn: a no-op (R124). -/
def execSys (_nnn : Addr12) (s : State) : Host.Outcome State Fault Refusal := .next s.advance

/-- 1nnn JP nnn (R125). -/
def execJp (nnn : Addr12) (s : State) : Host.Outcome State Fault Refusal := .next (s.setPc (zextNnn nnn))

/-- 2nnn CALL nnn: pushes the advanced `PC` (R126, R120). -/
def execCall (nnn : Addr12) (s : State) : Host.Outcome State Fault Refusal :=
  if s.sp.val = 16 then raiseFault s (encode (.call nnn)) .stackOverflow .empty
  else .next ((s.advance.push s.advance.pc).setPc (zextNnn nnn))

/-- 3xkk SE Vx, kk (R127). -/
def execSeImm (x : RegIx) (kk : Byte) (s : State) : Host.Outcome State Fault Refusal :=
  .next (s.advance.skipIf (s.reg x == kk))

/-- 4xkk SNE Vx, kk (R128). -/
def execSneImm (x : RegIx) (kk : Byte) (s : State) : Host.Outcome State Fault Refusal :=
  .next (s.advance.skipIf (s.reg x != kk))

/-- 5xy0 SE Vx, Vy (R129). -/
def execSeReg (x y : RegIx) (s : State) : Host.Outcome State Fault Refusal :=
  .next (s.advance.skipIf (s.reg x == s.reg y))

/-- 9xy0 SNE Vx, Vy (R130). -/
def execSneReg (x y : RegIx) (s : State) : Host.Outcome State Fault Refusal :=
  .next (s.advance.skipIf (s.reg x != s.reg y))

/-- Bnnn JP V0, nnn: a 16-bit sum, never masked to 12 bits (R131). -/
def execJpV0 (nnn : Addr12) (s : State) : Host.Outcome State Fault Refusal :=
  .next (s.setPc (zextNnn nnn + zextByte (s.reg 0)))

end Sys2Proof.Machine
end

