-- ==== Sys2Proof/Machine/Framebuffer.lean ====
section
/-! DEFINITION. The framebuffer's operations (40_display.md R100 to R105): reading and writing a cell, `Clear`, `Draw`. -/

namespace Sys2Proof.Machine

/-- `FB[r][c]` (R34). -/
def Grid.get (g : Grid) (r : Fin 32) (c : Fin 64) : Bool := (g[r.val])[c.val]

/-- `FB[r][c] <- b` (R13). -/
def Grid.set (g : Grid) (r : Fin 32) (c : Fin 64) (b : Bool) : Grid := Vector.set g r.val ((g[r.val]).set c.val b)

/-- `Clear()`: every cell false (R104). -/
def Grid.clear : Grid := Vector.replicate 32 (Vector.replicate 64 false)

/-- The row of a cell, taken modulo `HEIGHT` (R101). -/
def wrapRow (r : Nat) : Fin 32 := Fin.ofNat 32 r

/-- The column of a cell, taken modulo `WIDTH` (R101). -/
def wrapCol (c : Nat) : Fin 64 := Fin.ofNat 64 c

/-- Pixel `bit` of a sprite byte: bit 7 is the leftmost, `bit = 0` (R10, R101). -/
def spriteBit (b : Byte) (bit : Nat) : Bool := b.getLsbD (7 - bit)

/-- One cell of `Draw`: XOR the pixel in, and record a hit when a set pixel meets a set cell (R101). -/
def drawPixel (r : Fin 32) (c : Fin 64) (p : Bool) (d : Grid × Bool) : Grid × Bool :=
  (d.1.set r c (d.1.get r c ^^ p), d.2 || (p && d.1.get r c))

/-- One row of `Draw`: the eight pixels of `b`, from the left (R101). -/
def drawRow (x0 : Nat) (r : Fin 32) (b : Byte) (d : Grid × Bool) : Grid × Bool :=
  [0, 1, 2, 3, 4, 5, 6, 7].foldl (fun d bit => drawPixel r (wrapCol (x0 + bit)) (spriteBit b bit) d) d

/-- The rows of `Draw` from row `y` down (R101). -/
def drawRows (x0 : Nat) : Nat → List Byte → Grid × Bool → Grid × Bool
  | _, [], d => d
  | y, b :: bs, d => drawRows x0 (y + 1) bs (drawRow x0 (wrapRow y) b d)

/-- `Draw(x0, y0, bytes)`: the grid after it and whether any set cell was unset (R101, R102, R103). -/
def draw (x0 y0 : Nat) (bytes : List Byte) (g : Grid) : Grid × Bool := drawRows x0 y0 bytes (g, false)

end Sys2Proof.Machine
end

