-- ==== Sys2Proof/Machine/Display.lean ====
section
/-! DEFINITION. The display instructions (40_display.md). A meaning takes the state whose `PC` is the instruction's own address
and advances it (35_execution_cycle.md R92, R97). -/

namespace Sys2Proof.Machine

/-- 00E0 CLS (R106). -/
def execCls (s : State) : Host.Outcome State Fault Refusal := .next (s.advance.setFb Grid.clear)

/-- What Dxyn draws: the grid after it and the collision (R107, R101). -/
def State.sprite (s : State) (x y : RegIx) (n : SpriteLen) : Grid × Bool :=
  draw (s.spriteCol x) (s.spriteRow y) (s.mem.readBytes s.atI n.val) s.fb

/-- Dxyn DRW Vx, Vy, n (R107). -/
def execDrw (x y : RegIx) (n : SpriteLen) (s : State) : Host.Outcome State Fault Refusal :=
  checkedAtI s (encode (.drw x y n)) n.val .read
    ((s.advance.setFb (s.sprite x y n).1).setReg vf (bool2bit (s.sprite x y n).2))

end Sys2Proof.Machine
end

