-- ==== Sys2Proof/Machine/IndexMemory.lean ====
section
/-! DEFINITION. The index register and memory transfers (43_index_memory.md). Fx33, Fx55 and Fx65 leave `I` as it was
(R176). -/

namespace Sys2Proof.Machine

/-- Annn LD I, nnn (R170). -/
def execLdI (nnn : Addr12) (s : State) : Host.Outcome State Fault Refusal := .next (s.advance.setI (zextNnn nnn))

/-- Fx1E ADD I, Vx: modulo 2^16, no flag (R171). -/
def execAddI (x : RegIx) (s : State) : Host.Outcome State Fault Refusal :=
  .next (s.advance.setI (trunc16 (s.i.toNat + (s.reg x).toNat)))

/-- Fx29 LD F, Vx (R172). -/
def execLdF (x : RegIx) (s : State) : Host.Outcome State Fault Refusal := .next (s.advance.setI (glyphAddr (s.reg x)))

/-- Fx33 LD B, Vx (R173). -/
def execLdB (x : RegIx) (s : State) : Host.Outcome State Fault Refusal :=
  checkedAtI s (encode (.ldB x)) 3 .write (s.advance.setMem (s.mem.writeBytes s.atI (bcdDigits (s.reg x))))

/-- Fx55 LD [I], Vx (R174). -/
def execStoreRegs (x : RegIx) (s : State) : Host.Outcome State Fault Refusal :=
  checkedAtI s (encode (.storeRegs x)) (x.val + 1) .write (s.advance.setMem (s.mem.writeBytes s.atI (s.regsUpTo x)))

/-- Fx65 LD Vx, [I] (R175). -/
def execLoadRegs (x : RegIx) (s : State) : Host.Outcome State Fault Refusal :=
  checkedAtI s (encode (.loadRegs x)) (x.val + 1) .read (s.advance.setRegs (s.mem.readBytes s.atI (x.val + 1)))

end Sys2Proof.Machine
end

