-- ==== Sys2Proof/Machine/RegistersAlu.lean ====
section
/-! DEFINITION. Register loads and arithmetic (42_registers_alu.md). Statements of a rule run in order and a read sees every
earlier write (35_execution_cycle.md R95), so the second statement of 8xy5, 8xy6, 8xy7 and 8xyE reads the registers after
the write of VF. -/

namespace Sys2Proof.Machine

/-- 6xkk LD Vx, kk (R141). -/
def execLdImm (x : RegIx) (kk : Byte) (s : State) : Host.Outcome State Fault Refusal := .next (s.advance.setReg x kk)

/-- 7xkk ADD Vx, kk: no flag (R142). -/
def execAddImm (x : RegIx) (kk : Byte) (s : State) : Host.Outcome State Fault Refusal :=
  .next (s.advance.setReg x (trunc8 (trueSum (s.reg x) kk)))

/-- 8xy0 LD Vx, Vy (R143). -/
def execLdReg (x y : RegIx) (s : State) : Host.Outcome State Fault Refusal := .next (s.advance.setReg x (s.reg y))

/-- 8xy1 OR Vx, Vy (R144). -/
def execOrReg (x y : RegIx) (s : State) : Host.Outcome State Fault Refusal :=
  .next (s.advance.setReg x (s.reg x ||| s.reg y))

/-- 8xy2 AND Vx, Vy (R145). -/
def execAndReg (x y : RegIx) (s : State) : Host.Outcome State Fault Refusal :=
  .next (s.advance.setReg x (s.reg x &&& s.reg y))

/-- 8xy3 XOR Vx, Vy (R146). -/
def execXorReg (x y : RegIx) (s : State) : Host.Outcome State Fault Refusal :=
  .next (s.advance.setReg x (s.reg x ^^^ s.reg y))

/-- `V[15] <- flag`, then `V[x] <- result` of the state after it: the shape of the flag-writing rules (R95, R147 to
R151). -/
def State.flagThen (s : State) (flag : Byte) (x : RegIx) (result : State → Byte) : State :=
  (s.setReg vf flag).setReg x (result (s.setReg vf flag))

/-- 8xy4 ADD Vx, Vy: the sum is captured before VF is written (R147). -/
def execAddReg (x y : RegIx) (s : State) : Host.Outcome State Fault Refusal :=
  .next (s.advance.flagThen (carryFlag (s.reg x) (s.reg y)) x (fun _ => trunc8 (trueSum (s.reg x) (s.reg y))))

/-- 8xy5 SUB Vx, Vy (R148). -/
def execSubReg (x y : RegIx) (s : State) : Host.Outcome State Fault Refusal :=
  .next (s.advance.flagThen (noBorrowFlag (s.reg x) (s.reg y)) x (fun t => truncDiff (t.reg x) (t.reg y)))

/-- 8xy6 SHR Vx: `y` is ignored (R149). -/
def execShr (x _y : RegIx) (s : State) : Host.Outcome State Fault Refusal :=
  .next (s.advance.flagThen (shiftedOutLow (s.reg x)) x (fun t => t.reg x >>> 1))

/-- 8xy7 SUBN Vx, Vy (R150). -/
def execSubn (x y : RegIx) (s : State) : Host.Outcome State Fault Refusal :=
  .next (s.advance.flagThen (noBorrowFlag (s.reg y) (s.reg x)) x (fun t => truncDiff (t.reg y) (t.reg x)))

/-- 8xyE SHL Vx: `y` is ignored (R151). -/
def execShl (x _y : RegIx) (s : State) : Host.Outcome State Fault Refusal :=
  .next (s.advance.flagThen (shiftedOutHigh (s.reg x)) x (fun t => t.reg x <<< 1))

/-- Cxkk RND Vx, kk: one draw of RANDOM (R152). -/
def execRnd (x : RegIx) (kk : Byte) (s : State) : Host.Outcome State Fault Refusal :=
  .next (s.advance.drawn.setReg x (s.randomByte &&& kk))

end Sys2Proof.Machine
end

