-- ==== Sys2Proof/Machine/TimersKeypad.lean ====
section
/-! DEFINITION. Keypad and timer instructions (44_timers_keypad.md). -/

namespace Sys2Proof.Machine

/-- Ex9E SKP Vx: skip when the key is down (R190). -/
def execSkp (x : RegIx) (s : State) : Host.Outcome State Fault Refusal :=
  checkedKey s (encode (.skp x)) x (fun down => s.advance.skipIf down)

/-- ExA1 SKNP Vx: skip when the key is up (R191). -/
def execSknp (x : RegIx) (s : State) : Host.Outcome State Fault Refusal :=
  checkedKey s (encode (.sknp x)) x (fun down => s.advance.skipIf (!down))

/-- Fx07 LD Vx, DT (R192). -/
def execLdVxDt (x : RegIx) (s : State) : Host.Outcome State Fault Refusal := .next (s.advance.setReg x s.dt)

/-- Fx0A LD Vx, K: enter the wait; `V[x]` is written by the step that completes it (R193, R91). -/
def execLdVxK (x : RegIx) (s : State) : Host.Outcome State Fault Refusal :=
  .next ((s.advance.setRun (.awaitingKey x)).setDelivered none)

/-- Fx15 LD DT, Vx (R194). -/
def execLdDtVx (x : RegIx) (s : State) : Host.Outcome State Fault Refusal := .next (s.advance.setDt (s.reg x))

/-- Fx18 LD ST, Vx (R195). -/
def execLdStVx (x : RegIx) (s : State) : Host.Outcome State Fault Refusal := .next (s.advance.setSt (s.reg x))

end Sys2Proof.Machine
end

