-- ==== Sys2Proof/Machine/Execute.lean ====
section
/-! DEFINITION. The step (35_execution_cycle.md R90 to R96) and its output `needs_redraw` (R93). -/

namespace Sys2Proof.Machine

/-- A step in the Running state: fetch, decode, execute (R92), with the faults of the fetch and of decoding taken first
(R234). -/
def executeStep (s : State) : Host.Outcome State Fault Refusal :=
  match s.fetch with
  | none => .next (s.takeFault .fetchOutOfBounds none (.access s.pc 2 .fetch))
  | some w =>
    match decode w with
    | .ok i => exec i s
    | .error _ => raiseFault s w .illegalOpcode .empty

/-- `Step()`: by `Run` (R90). -/
def stepOnce (s : State) : Host.Outcome State Fault Refusal :=
  match s.run with
  | .running => executeStep s
  | .awaitingKey x => .next (s.waitStep x)
  | .halted _ => .next s

/-- Whether an instruction signals a redraw: only Dxyn (R93). -/
def signalsRedraw : Instr → Bool
  | .drw _ _ _ => true
  | .cls | .ret | .sys _ | .jp _ | .call _ | .seImm _ _ | .sneImm _ _ | .seReg _ _ | .ldImm _ _ | .addImm _ _ => false
  | .ldReg _ _ | .orReg _ _ | .andReg _ _ | .xorReg _ _ | .addReg _ _ | .subReg _ _ | .shr _ _ | .subn _ _ => false
  | .shl _ _ | .sneReg _ _ | .ldI _ | .jpV0 _ | .rnd _ _ | .skp _ | .sknp _ | .ldVxDt _ | .ldVxK _ => false
  | .ldDtVx _ | .ldStVx _ | .addI _ | .ldF _ | .ldB _ | .storeRegs _ | .loadRegs _ => false

/-- What a step gives beside the state: `needs_redraw`, a fault, or no value. -/
inductive StepOutput where
  /-- `needs_redraw` of a completed step (R93). -/
  | needsRedraw (b : Bool)
  /-- The step halted the block with a fault (R94, R217). -/
  | faulted (f : FaultRecord)
  /-- No value: what the host gets of a step in the Halted state (R96, R219; assumption log entry 5), and a step that is refused. -/
  | noValue
  deriving DecidableEq, Repr

/-- The output of a step that began Running and left the run state `r`, given the word it fetched (R93, R94). -/
def outputAfter (fetched : Option Word) (r : RunState) : StepOutput :=
  match r, fetched with
  | .halted f, _ => .faulted f
  | _, some w => .needsRedraw ((decode w).toOption.any signalsRedraw)
  | _, none => .needsRedraw false

/-- The output of the step from `s` (R93, R94): `needs_redraw` is false where no instruction is executed, in a wait and in
the Halted state (D26; assumption log entry 5). What the host gets of it is `stepReply` of Machine/Commands.lean. -/
def stepOutput (s : State) : StepOutput :=
  match s.run with
  | .halted _ | .awaitingKey _ => .needsRedraw false
  | .running =>
    match executeStep s with
    | .next t => outputAfter s.fetch t.run
    | .fault _ | .refused _ => .noValue

end Sys2Proof.Machine
end

