-- ==== Sys2Proof/Machine/Step.lean ====
section
/-! DEFINITION. The step as the host's interface takes it, and the placing of an instruction where it fetches. -/

namespace Sys2Proof.Machine

/-- One host command `step()` (R90, R217). -/
def step (s : State) : Host.Outcome State Fault Refusal := stepOnce s

/-- `s` with the opcode-table word `w` stored where `step` fetches its next instruction. -/
def State.withFetchWord (s : State) (nbits w : Nat) : State := s.placeWord (tableWord nbits w)

end Sys2Proof.Machine
end

