-- ==== Sys2Proof/Machine/Commands.lean ====
section
/-! DEFINITION. The host's commands (50_host_interface.md R210 to R219), each one atomic transaction on a session: the block
and whether `load_program` is still admitted. -/

namespace Sys2Proof.Machine

/-- A host command (R210). A set of keys is a list, of which only membership counts. -/
inductive Command where
  /-- `load_program(bytes)` (R212) -/
  | loadProgram (image : List Byte)
  /-- `step()` (R217) -/
  | step
  /-- `decrement_timers()` (R213) -/
  | decrementTimers
  /-- `update_keypad(pressed)` (R214) -/
  | updateKeypad (pressed : List Nat)
  /-- `deliver_key_press(key)` (R215) -/
  | deliverKeyPress (key : Nat)
  /-- `framebuffer_snapshot()` (R216) -/
  | framebufferSnapshot
  deriving DecidableEq, Repr

/-- What a command gives back (R210, R220). -/
inductive Reply where
  /-- Nothing. -/
  | nothing
  /-- What `step()` returns or reports (R217, R219). -/
  | stepped (o : StepOutput)
  /-- `load_program` halted the block (R212). -/
  | loadFaulted (f : FaultRecord)
  /-- The grid (R216). -/
  | grid (g : Grid)
  deriving DecidableEq, Repr

/-- The block, and whether `load_program` is still admitted: at most once, after construction and before the first step
(R218). The second is the host's history, not state of the block (assumption log entry 4). -/
structure Session where
  /-- the block -/
  block : State
  /-- no `load_program` and no `step` was issued yet -/
  loadOpen : Bool
  deriving DecidableEq, Repr

/-- A session right after the block's construction with FONT (R260, R44). -/
def Session.start (font : List Byte) : Session := { block := State.construct font, loadOpen := true }

/-- Whether `Run` is Halted (R31). -/
def State.isHalted (s : State) : Bool :=
  match s.run with
  | .halted _ => true
  | .running | .awaitingKey _ => false

/-- The fault record of an image that is too long (R212, R232). -/
def loadFault (image : List Byte) : FaultRecord :=
  { cause := .programTooLarge, pc := BitVec.ofNat 16 Config.programBase, opcode := none,
    info := .imageLength image.length }

/-- `load_program(bytes)` on a block that is not Halted (R212). -/
def State.loadProgram (s : State) (image : List Byte) : State :=
  if image.length > Config.programMax then s.halt (loadFault image)
  else s.setMem (s.mem.writeBytes Config.programBase image)

/-- One timer counted down, stopping at zero (R213). -/
def countDown (b : Byte) : Byte := if b = 0 then 0 else b - 1

/-- `decrement_timers()` (R213). -/
def State.decrementTimers (s : State) : State :=
  if s.isHalted then s else (s.setDt (countDown s.dt)).setSt (countDown s.st)

/-- The sixteen levels of a set of pressed keys (R214). -/
def keyLevels (pressed : List Nat) : Vector Bool 16 :=
  #v[pressed.contains 0x0, pressed.contains 0x1, pressed.contains 0x2, pressed.contains 0x3,
    pressed.contains 0x4, pressed.contains 0x5, pressed.contains 0x6, pressed.contains 0x7,
    pressed.contains 0x8, pressed.contains 0x9, pressed.contains 0xA, pressed.contains 0xB,
    pressed.contains 0xC, pressed.contains 0xD, pressed.contains 0xE, pressed.contains 0xF]

/-- `update_keypad(pressed)` (R214). -/
def State.updateKeypad (s : State) (pressed : List Nat) : State :=
  if s.isHalted then s else s.setKey (keyLevels pressed)

/-- `deliver_key_press(key)` (R215). -/
def State.deliverKeyPress (s : State) (key : KeyIx) : State :=
  match s.run with
  | .awaitingKey _ => s.setDelivered (some key)
  | .running | .halted _ => s

/-- A command's outcome on a session: the session after it and what the command gives back. -/
abbrev CommandOutcome := Host.Outcome (Session × Reply) Fault Refusal

/-- `load_program` with R218's precondition; a Halted block ignores it first (R212, R219). -/
def Session.loadProgram (c : Session) (image : List Byte) : CommandOutcome :=
  if c.block.isHalted then .next (c, .nothing)
  else if c.loadOpen then
    .next ({ block := c.block.loadProgram image, loadOpen := false },
      if image.length > Config.programMax then .loadFaulted (loadFault image) else .nothing)
  else .refused .loadNotAdmitted

/-- What the host gets of a step from `s`: its output (R217), but no value once the block is Halted (R96, R219; assumption log
entry 5). -/
def stepReply (s : State) : StepOutput := if s.isHalted then .noValue else stepOutput s

/-- `step()` with what it gives back (R217). -/
def Session.step (c : Session) : CommandOutcome :=
  match Sys2Proof.Machine.step c.block with
  | .next t => .next ({ block := t, loadOpen := false }, .stepped (stepReply c.block))
  | .fault f => .fault f
  | .refused r => .refused r

/-- `update_keypad` with R218's precondition on every key. -/
def Session.updateKeypad (c : Session) (pressed : List Nat) : CommandOutcome :=
  match pressed.find? (fun k => 16 ≤ k) with
  | some k => .refused (.keyIdentifier k)
  | none => .next ({ c with block := c.block.updateKeypad pressed }, .nothing)

/-- `deliver_key_press` with R218's precondition on the key. -/
def Session.deliverKeyPress (c : Session) (key : Nat) : CommandOutcome :=
  if h : key < 16 then .next ({ c with block := c.block.deliverKeyPress ⟨key, h⟩ }, .nothing)
  else .refused (.keyIdentifier key)

/-- One host command (R210, R211). -/
def Session.apply (c : Session) : Command → CommandOutcome
  | .loadProgram image => c.loadProgram image
  | .step => c.step
  | .decrementTimers => .next ({ c with block := c.block.decrementTimers }, .nothing)
  | .updateKeypad pressed => c.updateKeypad pressed
  | .deliverKeyPress key => c.deliverKeyPress key
  | .framebufferSnapshot => .next (c, .grid c.block.fb)

/-- The host's commands one after another, each to completion (R211), up to the first that is refused. -/
def Session.runAll (c : Session) : List Command → Host.Outcome Session Fault Refusal
  | [] => .next c
  | k :: ks =>
    match c.apply k with
    | .next (d, _) => d.runAll ks
    | .fault f => .fault f
    | .refused r => .refused r

end Sys2Proof.Machine
end

