-- ==== Sys2Proof/Safety.lean ====
section
/-! DEFINITION. The terms the statements use: what a part of the machine leaves unchanged, the invariants of 10_state.md R24 and
R45, which instruction a step executes, and runs whose calls and returns are matched (41_control_flow.md R132). -/

namespace Sys2Proof.Machine

/-- What an instruction may change beside `PC`; everything not named is left as it was. -/
structure Touched where
  /-- the general registers it may write -/
  regs : List RegIx := []
  /-- it may write `I` -/
  i : Bool := false
  /-- it may write `Stack` and `SP` -/
  stack : Bool := false
  /-- it may write `DT` -/
  dt : Bool := false
  /-- it may write `ST` -/
  st : Bool := false
  /-- it may write the framebuffer -/
  fb : Bool := false
  /-- it may write `Run` and `Delivered` -/
  control : Bool := false
  /-- it draws bytes of RANDOM -/
  draws : Bool := false
  /-- the block of memory it may store to: its first address and its length -/
  mem : Option (Nat × Nat) := none

/-- THE FRAME: from `s` to `t` nothing changed but `PC` and what `w` names. No instruction writes `Key` (R30). -/
def Frame (s t : State) (w : Touched) : Prop :=
  (∀ r, r ∉ w.regs → t.reg r = s.reg r) ∧
  (w.i = false → t.i = s.i) ∧
  (w.stack = false → t.stack = s.stack ∧ t.sp = s.sp) ∧
  (w.dt = false → t.dt = s.dt) ∧
  (w.st = false → t.st = s.st) ∧
  t.key = s.key ∧
  (w.fb = false → t.fb = s.fb) ∧
  (w.control = false → t.run = s.run ∧ t.delivered = s.delivered) ∧
  (w.draws = false → t.draws = s.draws) ∧
  ∀ a, (∀ p ∈ w.mem, ¬ (p.1 ≤ a ∧ a < p.1 + p.2)) → t.mem.read a = s.mem.read a

/-- What each instruction may change, given the state it starts in (R22, R25, R26, R28, R29, R30, R34, R57). Fx65 names the
registers up to `x`; Fx33 and Fx55 the block at `I`. -/
def touched (s : State) : Instr → Touched
  | .cls => { fb := true }
  | .ret | .call _ => { stack := true }
  | .sys _ | .jp _ | .jpV0 _ => {}
  | .seImm _ _ | .sneImm _ _ | .seReg _ _ | .sneReg _ _ | .skp _ | .sknp _ => {}
  | .ldImm x _ | .addImm x _ | .ldReg x _ | .orReg x _ | .andReg x _ | .xorReg x _ | .ldVxDt x => { regs := [x] }
  | .addReg x _ | .subReg x _ | .shr x _ | .subn x _ | .shl x _ => { regs := [x, vf] }
  | .ldI _ | .addI _ | .ldF _ => { i := true }
  | .rnd x _ => { regs := [x], draws := true }
  | .drw _ _ _ => { regs := [vf], fb := true }
  | .ldVxK _ => { control := true }
  | .ldDtVx _ => { dt := true }
  | .ldStVx _ => { st := true }
  | .ldB _ => { mem := some (s.i.toNat, 3) }
  | .storeRegs x => { mem := some (s.i.toNat, x.val + 1) }
  | .loadRegs x => { regs := (List.finRange 16).filter (fun r => r.val ≤ x.val) }

/-- The instruction that a step from `s` executes, if it executes one (R90, R92). -/
def instrAt (s : State) : Option Instr :=
  match s.run with
  | .running => s.fetch.bind (fun w => (decode w).toOption)
  | .awaitingKey _ | .halted _ => none

/-- Outside a wait nothing is recorded as delivered (R32, R45). -/
def DeliveredOnlyInWait (s : State) : Prop := s.delivered ≠ none → ∃ x, s.run = .awaitingKey x

/-- Every word that the row `pat` under `mask` matches decodes to the instruction `f` makes of the word's fields (R75). -/
def DecodesAs (mask pat : Word) (f : Word → Instr) : Prop := ∀ w : Word, w &&& mask = pat → decode w = .ok (f w)

/-- `o` is `s` with `Run` Halted and nothing else changed: the fault record holds `cause`, the address `s.pc`, `opcode` and
`info` (R94, R232). -/
def HaltsWith (o : Host.Outcome State Fault Refusal) (s : State) (cause : FaultCause) (opcode : Option Word)
    (info : FaultInfo) : Prop :=
  o = .next { s with run := .halted { cause := cause, pc := s.pc, opcode := opcode, info := info } }

/-- The invariant of R45, with the canonical form of memory; the widths and `SP`'s bound are the types' own. -/
def Inv (s : State) : Prop := s.mem.wf ∧ DeliveredOnlyInWait s

/-- The invariant of a session: its block's, and `load_program` is never still admitted in a wait (R218, R243). -/
def SessionInv (c : Session) : Prop := Inv c.block ∧ (c.loadOpen = true → ∀ x, c.block.run ≠ .awaitingKey x)

/-- `PC` never passes 0x10FE and no return address passes 0x1000 (R24). -/
def PcBounded (s : State) : Prop := s.pc.toNat ≤ 0x10FE ∧ ∀ j : Fin 16, (s.stack[j.val]).toNat ≤ 0x1000

/-- The steps from `s` to `t` in which every call that pushed has been matched by a return: the runs between a CALL and its
RET (R132). A step that executes neither 2nnn nor 00EE is one of them (a wait step or a fault among them), and so is a
call on a stack with room, a run of this kind, and the return that pops what the call pushed. -/
inductive CallsMatched : State → State → Prop where
  | none (s : State) : CallsMatched s s
  | quiet {s t u : State} : CallsMatched s t → (∀ n, instrAt t ≠ some (.call n)) → instrAt t ≠ some .ret →
      step t = .next u → CallsMatched s u
  | nested {s t u v w : State} {n : Addr12} : CallsMatched s t → instrAt t = some (.call n) → t.sp.val < 16 →
      step t = .next u → CallsMatched u v → instrAt v = some .ret → step v = .next w → CallsMatched s w

end Sys2Proof.Machine
end

