-- ==== Sys2Proof/Certificates/Slice0/Obligations.lean ====
section
/-! DEFINITION. The statements for the provers. Where a docstring says "the spec's decision", the clause rests on a choice that
spec/92_eei_decisions.md marks as its own; where it names a log entry, on a choice of this model. -/

open Sys2Proof Sys2Proof.Machine

/-! ### Decoding and encoding (30_encoding.md) -/

/-- Decoding the word of a well-formed instruction gives it back, every operand at every value. -/
def Obligations.DecodeUndoesEncode : Prop :=
  ∀ i : Instr, i.wellFormed = true → decode (encode i) = .ok i

/-- The word an instruction was decoded from is the word it encodes to, so no bit of a legal word is dropped (the ignored
`y` of 8xy6 and 8xyE among them), and only well-formed instructions are decoded. -/
def Obligations.EncodeUndoesDecode : Prop :=
  ∀ (w : Word) (i : Instr), decode w = .ok i → encode i = w ∧ i.wellFormed = true

/-- R75: the first row that applies decodes the word, a word no row matches is illegal, and only the 0nnn row (number 2,
from 0) overlaps others, the two before it. -/
def Obligations.DecodeFollowsOpcodeTable : Prop :=
  (∀ w : Word, match decode w with
    | .ok i => firstRow w = some i.row
    | .error e => firstRow w = none ∧ e = .illegalOpcode w) ∧
  ∀ (w : Word) (p q : Fin tableRows.length), p < q → rowApplies w tableRows[p] = true →
    rowApplies w tableRows[q] = true → p.val ≤ 1 ∧ q.val = 2

/-- The illegal words, family by family (the table of R81, less its counts). -/
def Obligations.IllegalWordsByFamily : Prop :=
  ∀ w : Word, decode w = .error (.illegalOpcode w) ↔
    (w.toNat / 4096 = 0x5 ∧ w.toNat % 16 ≠ 0) ∨
    (w.toNat / 4096 = 0x8 ∧ w.toNat % 16 ∈ [0x8, 0x9, 0xA, 0xB, 0xC, 0xD, 0xF]) ∨
    (w.toNat / 4096 = 0x9 ∧ w.toNat % 16 ≠ 0) ∨
    (w.toNat / 4096 = 0xE ∧ w.toNat % 256 ∉ [0x9E, 0xA1]) ∨
    (w.toNat / 4096 = 0xF ∧ w.toNat % 256 ∉ [0x07, 0x0A, 0x15, 0x18, 0x1E, 0x29, 0x33, 0x55, 0x65])

/-- A byte sequence that begins with an instruction's two bytes decodes to it and leaves the rest. -/
def Obligations.DecodeBytesReadsTwoBytes : Prop :=
  ∀ (i : Instr) (rest : List Byte), i.wellFormed = true → decodeBytes (encodeBytes i ++ rest) = .ok (i, rest)

/-- A few words written out from the examples of the spec's instruction rules (a sanity statement). -/
def Obligations.DecodedSampleWords : Prop :=
  decode 0x00E0 = .ok .cls ∧ decode 0x00EE = .ok .ret ∧ decode 0x0123 = .ok (.sys 0x123) ∧
  decode 0x2300 = .ok (.call 0x300) ∧ decode 0x9120 = .ok (.sneReg 1 2) ∧ decode 0x600A = .ok (.ldImm 0 0x0A) ∧
  decode 0x8127 = .ok (.subn 1 2) ∧ decode 0x810E = .ok (.shl 1 0) ∧ decode 0xC30F = .ok (.rnd 3 0x0F) ∧
  decode 0xD011 = .ok (.drw 0 1 1) ∧ decode 0xE1A1 = .ok (.sknp 1) ∧ decode 0xF30A = .ok (.ldVxK 3) ∧
  decode 0xF255 = .ok (.storeRegs 2) ∧ decode 0xF265 = .ok (.loadRegs 2) ∧
  decode 0x5001 = .error (.illegalOpcode 0x5001)

/-! ### The step (35_execution_cycle.md) -/

/-- When the two bytes at `PC`, high byte first, decode to an instruction, a step of a Running block is `exec` of it, at an
odd `PC` too (R90, R92, R56, the spec's decisions D3 and D10); a step adds nothing around `exec`, which itself advances
`PC`. -/
def Obligations.StepRunsDecodedInstruction : Prop :=
  ∀ (s : State) (w : Word) (i : Instr), s.run = .running → s.pc.toNat + 2 ≤ 4096 →
    w.toNat = 256 * (s.mem.read s.pc.toNat).toNat + (s.mem.read (s.pc.toNat + 1)).toNat → decode w = .ok i →
    step s = exec i s

/-- A fetch that leaves memory faults FETCH_OUT_OF_BOUNDS and changes nothing but `Run` (R92, R94 by the spec's decisions
D6 and D10; the recorded kind by log entry 6). -/
def Obligations.FetchOutsideMemoryFaults : Prop :=
  ∀ s : State, s.run = .running → 4096 < s.pc.toNat + 2 →
    HaltsWith (step s) s .fetchOutOfBounds none (.access s.pc 2 .fetch)

/-- A word that no row matches faults ILLEGAL_OPCODE with the word recorded (R81, R94 by the spec's decision D6). -/
def Obligations.IllegalWordFaults : Prop :=
  ∀ (s : State) (w : Word), s.run = .running → s.fetch = some w → firstRow w = none →
    HaltsWith (step s) s .illegalOpcode (some w) .empty

/-- A wait step polls: nothing without a delivered key, else the key goes to `V[x]` and the wait ends with `PC` unchanged
(R91, the spec's decision D3). -/
def Obligations.WaitStepPolls : Prop :=
  ∀ (s : State) (x : RegIx), s.run = .awaitingKey x →
    (s.delivered = none → step s = .next s) ∧
    ∀ k : KeyIx, s.delivered = some k → ∃ t, step s = .next t ∧ (t.reg x).toNat = k.val ∧ t.run = .running ∧
      t.delivered = none ∧ t.pc = s.pc ∧ Frame s t { regs := [x], control := true }

/-- Every step answers a next state: the block stops by nothing, and a fault is a Halted state (log entry 3). -/
def Obligations.StepAlwaysAnswersNext : Prop := ∀ s : State, ∃ t, step s = .next t

/-- Faults are precise (R94, R235 by the spec's decision D6): a step that ends Halted began Running or was Halted already, and
one that began Running changed nothing but `Run`, and recorded its own address and the word it fetched, if any. -/
def Obligations.FaultsArePrecise : Prop :=
  ∀ (s t : State) (f : FaultRecord), step s = .next t → t.run = .halted f →
    t = s ∨ (s.run = .running ∧ t = { s with run := .halted f } ∧ f.pc = s.pc ∧ f.opcode = s.fetch)

/-- What each cause of a fault in a step means, and that nothing else faults (R230, R234; the spec's decisions D5, D7,
D8; the recorded kind of a fetch fault by log entry 6). -/
def Obligations.FaultCausesAreExact : Prop :=
  ∀ (s t : State) (f : FaultRecord), s.run = .running → step s = .next t → t.run = .halted f →
    match f.cause with
    | .illegalOpcode => (∃ w, s.fetch = some w ∧ firstRow w = none) ∧ f.info = .empty
    | .stackOverflow => (∃ n, instrAt s = some (.call n)) ∧ s.sp.val = 16 ∧ f.info = .empty
    | .stackUnderflow => instrAt s = some .ret ∧ s.sp.val = 0 ∧ f.info = .empty
    | .fetchOutOfBounds => 0xFFF ≤ s.pc.toNat ∧ f.info = .access s.pc 2 .fetch
    | .dataOutOfBounds => ∃ len kind, f.info = .access s.i len kind ∧ 4096 < s.i.toNat + len ∧
        ((∃ x y n, instrAt s = some (.drw x y n) ∧ len = n.val ∧ kind = .read) ∨
         (∃ x, instrAt s = some (.ldB x) ∧ len = 3 ∧ kind = .write) ∨
         (∃ x, instrAt s = some (.storeRegs x) ∧ len = x.val + 1 ∧ kind = .write) ∨
         (∃ x, instrAt s = some (.loadRegs x) ∧ len = x.val + 1 ∧ kind = .read))
    | .keyIndexOutOfRange => ∃ x, (instrAt s = some (.skp x) ∨ instrAt s = some (.sknp x)) ∧
        15 < (s.reg x).toNat ∧ f.info = .keyIndex (s.reg x)
    | .programTooLarge => False

/-- The output of a step (R93, R94, the spec's decision D26): `needs_redraw` is true exactly when the step executed a
Dxyn, false in a wait step and in a Halted step, and a step that faults gives the fault. The host gets that output of `step()`
(R217) while the block is not Halted; what it gets after that is in `HaltedIsFinal` (log entry 5). -/
def Obligations.RedrawExactlyOnDraw : Prop :=
  (∀ (s t : State) (w : Word), s.run = .running → s.fetch = some w → step s = .next t → (∀ f, t.run ≠ .halted f) →
    stepOutput s = .needsRedraw (decide (w.toNat / 4096 = 0xD))) ∧
  (∀ (s : State) (x : RegIx), s.run = .awaitingKey x → stepOutput s = .needsRedraw false) ∧
  (∀ (s : State) (f : FaultRecord), s.run = .halted f → stepOutput s = .needsRedraw false) ∧
  (∀ (s t : State) (f : FaultRecord), s.run = .running → step s = .next t → t.run = .halted f →
    stepOutput s = .faulted f) ∧
  ∀ c : Session, c.block.isHalted = false → ∃ t, step c.block = .next t ∧
    c.apply .step = .next ({ block := t, loadOpen := false }, .stepped (stepOutput c.block))

/-- The frame of every instruction: a next state that is not the taking of a fault differs from the state before only in
`PC` and what `touched` names for the instruction. That a fault changes only `Run` is the spec's decision D6 (R94; a
next state by log entry 3), and that Fx55 and Fx65 keep `I` its decision D11. -/
def Obligations.InstructionsKeepTheirFrame : Prop :=
  ∀ (i : Instr) (s t : State), exec i s = .next t →
    (∃ f, t = { s with run := .halted f }) ∨ Frame s t (touched s i)

/-- An opcode-table word placed by `withFetchWord` is what the next step runs (log entry 7). -/
def Obligations.PlacedWordRunsNext : Prop :=
  ∀ (s : State) (w : Nat) (i : Instr), s.mem.wf → decodeTableWord 16 w = some i →
    step (s.withFetchWord 16 w) = exec i (s.withFetchWord 16 w)

/-! ### The framebuffer (40_display.md) -/

/-- `Draw` flips exactly the cells that a set bit of the sprite falls on, rows taken modulo 32 and columns modulo 64
(R101 with its derived remark that no cell is touched twice). -/
def Obligations.DrawFlipsSpriteCells : Prop :=
  ∀ (x0 y0 : Nat) (bs : List Byte) (g : Grid) (r : Fin 32) (c : Fin 64), bs.length ≤ 15 →
    ((draw x0 y0 bs g).1.get r c ≠ g.get r c ↔
      ∃ row bit b, bs[row]? = some b ∧ bit < 8 ∧ r.val = (y0 + row) % 32 ∧ c.val = (x0 + bit) % 64 ∧
        b.getLsbD (7 - bit) = true)

/-- R102: `Draw` reports a hit if and only if at least one cell went from set to unset. -/
def Obligations.DrawReportsErasedCells : Prop :=
  ∀ (x0 y0 : Nat) (bs : List Byte) (g : Grid), bs.length ≤ 15 →
    ((draw x0 y0 bs g).2 = true ↔ ∃ r c, g.get r c = true ∧ (draw x0 y0 bs g).1.get r c = false)

/-- Drawing the same sprite twice restores the grid, and the second draw reports a hit exactly when the first set a cell
(R108, whose second sentence is the spec's own derivation). -/
def Obligations.DrawTwiceRestoresGrid : Prop :=
  ∀ (x0 y0 : Nat) (bs : List Byte) (g : Grid), bs.length ≤ 15 →
    (draw x0 y0 bs (draw x0 y0 bs g).1).1 = g ∧
    ((draw x0 y0 bs (draw x0 y0 bs g).1).2 = true ↔
      ∃ r c, g.get r c = false ∧ (draw x0 y0 bs g).1.get r c = true)

/-- R104, R106: 00E0 is CLS, which makes every cell false, changes nothing else and signals no redraw. -/
def Obligations.ClsClearsScreen : Prop :=
  decode 0x00E0 = .ok .cls ∧
  (∀ s : State, ∃ t, exec .cls s = .next t ∧ (∀ r c, t.fb.get r c = false) ∧ t.pc = s.pc + 2 ∧
    Frame s t { fb := true }) ∧
  ∀ s : State, s.run = .running → s.fetch = some 0x00E0 → stepOutput s = .needsRedraw false

/-- Dxyn with its sprite inside memory draws the bytes from `I` at (V[x] mod 64, V[y] mod 32), coordinates read before VF is
written, and leaves 1 or 0 in VF (R107; the empty sprite by the spec's decisions D8 and D22). -/
def Obligations.DrwDrawsSprite : Prop :=
  ∀ (x y : RegIx) (n : SpriteLen) (s : State), s.i.toNat + n.val ≤ 4096 →
    ∃ (t : State) (bs : List Byte), exec (.drw x y n) s = .next t ∧ bs.length = n.val ∧
      (∀ j : Fin 16, j < n → bs[j.val]? = some (s.mem.read (s.i.toNat + j.val))) ∧
      t.fb = (draw ((s.reg x).toNat % 64) ((s.reg y).toNat % 32) bs s.fb).1 ∧
      (t.reg vf).toNat = (if (draw ((s.reg x).toNat % 64) ((s.reg y).toNat % 32) bs s.fb).2 then 1 else 0) ∧
      t.pc = s.pc + 2 ∧ Frame s t { regs := [vf], fb := true }

/-- Dxyn whose sprite leaves memory faults DATA_OUT_OF_BOUNDS and draws nothing (R107, R94 by the spec's decision D6). -/
def Obligations.DrwOutsideMemoryFaults : Prop :=
  ∀ (x y : RegIx) (n : SpriteLen) (s : State), 4096 < s.i.toNat + n.val →
    ∃ w : Word, w.toNat = 0xD000 + 256 * x.val + 16 * y.val + n.val ∧
      HaltsWith (exec (.drw x y n) s) s .dataOutOfBounds (some w) (.access s.i n.val .read)

/-! ### Control transfer (41_control_flow.md) -/

/-- R121, R123: 00EE is RET, which pops the topmost return address into `PC` and keeps the slot, or faults
STACK_UNDERFLOW on an empty stack with `PC` and `SP` as they were (what a fault leaves and records is the spec's decisions D6
and D7, the kept slot D21). -/
def Obligations.RetPopsReturnAddress : Prop :=
  decode 0x00EE = .ok .ret ∧
  (∀ (s : State) (j : Fin 16), s.sp.val = j.val + 1 → ∃ t, exec .ret s = .next t ∧ t.pc = s.stack[j.val] ∧
    t.sp.val = j.val ∧ t.stack = s.stack ∧ Frame s t { stack := true }) ∧
  ∀ s : State, s.sp.val = 0 → HaltsWith (exec .ret s) s .stackUnderflow (some 0x00EE) .empty

/-- R124: every word below 0x1000 but 00E0 and 00EE is SYS, which only advances `PC`. -/
def Obligations.SysDoesNothing : Prop :=
  (∀ w : Word, w &&& 0xF000 = 0x0000 → w ≠ 0x00E0 → w ≠ 0x00EE → decode w = .ok (.sys (fieldNnn w))) ∧
  ∀ (nnn : Addr12) (s : State), ∃ t, exec (.sys nnn) s = .next t ∧ t.pc = s.pc + 2 ∧ Frame s t {}

/-- R125: 1nnn is JP, which puts the zero-extended address in `PC`. -/
def Obligations.JpSetsPc : Prop :=
  DecodesAs 0xF000 0x1000 (fun w => .jp (fieldNnn w)) ∧
  ∀ (nnn : Addr12) (s : State), ∃ t, exec (.jp nnn) s = .next t ∧ t.pc.toNat = nnn.toNat ∧ Frame s t {}

/-- R120, R126: 2nnn is CALL, which pushes the address after it and jumps, or faults STACK_OVERFLOW with 16 entries on the
stack and changes nothing (what a fault leaves and records is the spec's decisions D6 and D7). -/
def Obligations.CallPushesReturnAddress : Prop :=
  DecodesAs 0xF000 0x2000 (fun w => .call (fieldNnn w)) ∧
  (∀ (nnn : Addr12) (s : State), s.sp.val < 16 → ∃ t, exec (.call nnn) s = .next t ∧ t.pc.toNat = nnn.toNat ∧
    t.sp.val = s.sp.val + 1 ∧
    (∀ j : Fin 16, t.stack[j.val] = if j.val = s.sp.val then s.pc + 2 else s.stack[j.val]) ∧
    Frame s t { stack := true }) ∧
  ∀ (nnn : Addr12) (s : State), s.sp.val = 16 → ∃ w : Word, w.toNat = 0x2000 + nnn.toNat ∧
    HaltsWith (exec (.call nnn) s) s .stackOverflow (some w) .empty

/-- R127, R128: 3xkk and 4xkk skip the next word when `V[x]` equals, or differs from, `kk`. -/
def Obligations.SkipsOnImmediate : Prop :=
  DecodesAs 0xF000 0x3000 (fun w => .seImm (fieldX w) (fieldKk w)) ∧
  DecodesAs 0xF000 0x4000 (fun w => .sneImm (fieldX w) (fieldKk w)) ∧
  ∀ (x : RegIx) (kk : Byte) (s : State),
    (∃ t, exec (.seImm x kk) s = .next t ∧ t.pc = (if s.reg x = kk then s.pc + 4 else s.pc + 2) ∧ Frame s t {}) ∧
    (∃ t, exec (.sneImm x kk) s = .next t ∧ t.pc = (if s.reg x = kk then s.pc + 2 else s.pc + 4) ∧ Frame s t {})

/-- R129, R130: 5xy0 and 9xy0 skip the next word when `V[x]` equals, or differs from, `V[y]`; with another low nibble the
word is illegal. -/
def Obligations.SkipsOnRegister : Prop :=
  DecodesAs 0xF00F 0x5000 (fun w => .seReg (fieldX w) (fieldY w)) ∧
  DecodesAs 0xF00F 0x9000 (fun w => .sneReg (fieldX w) (fieldY w)) ∧
  (∀ w : Word, w &&& 0xF000 = 0x5000 ∨ w &&& 0xF000 = 0x9000 → w &&& 0x000F ≠ 0 →
    decode w = .error (.illegalOpcode w)) ∧
  ∀ (x y : RegIx) (s : State),
    (∃ t, exec (.seReg x y) s = .next t ∧ t.pc = (if s.reg x = s.reg y then s.pc + 4 else s.pc + 2) ∧ Frame s t {}) ∧
    (∃ t, exec (.sneReg x y) s = .next t ∧ t.pc = (if s.reg x = s.reg y then s.pc + 2 else s.pc + 4) ∧ Frame s t {})

/-- Bnnn jumps to nnn + V0, never masked to 12 bits (R131, the spec's decision D10). -/
def Obligations.JpV0AddsV0 : Prop :=
  ∀ (nnn : Addr12) (s : State), ∃ t, exec (.jpV0 nnn) s = .next t ∧ t.pc.toNat = nnn.toNat + (s.reg 0).toNat ∧
    Frame s t {}

/-- A RET goes back to the word after its CALL, and the stack is as deep as before it, whatever ran between them as long as
the calls there were matched by returns (R132, whose condition is the spec's own derivation). -/
def Obligations.ReturnGoesBehindItsCall : Prop :=
  ∀ (s t u v : State) (n : Addr12), instrAt s = some (.call n) → s.sp.val < 16 → step s = .next t →
    CallsMatched t u → instrAt u = some .ret → step u = .next v → v.pc = s.pc + 2 ∧ v.sp = s.sp

/-! ### Register loads and arithmetic (42_registers_alu.md) -/

/-- R141, R143: 6xkk and 8xy0 write `V[x]` with `kk`, or `V[y]`. -/
def Obligations.RegisterLoads : Prop :=
  DecodesAs 0xF000 0x6000 (fun w => .ldImm (fieldX w) (fieldKk w)) ∧
  DecodesAs 0xF00F 0x8000 (fun w => .ldReg (fieldX w) (fieldY w)) ∧
  (∀ (x : RegIx) (kk : Byte) (s : State), ∃ t, exec (.ldImm x kk) s = .next t ∧ t.reg x = kk ∧ t.pc = s.pc + 2 ∧
    Frame s t { regs := [x] }) ∧
  ∀ (x y : RegIx) (s : State), ∃ t, exec (.ldReg x y) s = .next t ∧ t.reg x = s.reg y ∧ t.pc = s.pc + 2 ∧
    Frame s t { regs := [x] }

/-- R144, R145, R146: 8xy1, 8xy2 and 8xy3 are bitwise and leave VF alone unless it is `V[x]`. -/
def Obligations.BitwiseOperations : Prop :=
  DecodesAs 0xF00F 0x8001 (fun w => .orReg (fieldX w) (fieldY w)) ∧
  DecodesAs 0xF00F 0x8002 (fun w => .andReg (fieldX w) (fieldY w)) ∧
  DecodesAs 0xF00F 0x8003 (fun w => .xorReg (fieldX w) (fieldY w)) ∧
  ∀ (x y : RegIx) (s : State),
    (∃ t, exec (.orReg x y) s = .next t ∧
      (∀ j < 8, (t.reg x).getLsbD j = ((s.reg x).getLsbD j || (s.reg y).getLsbD j)) ∧ t.pc = s.pc + 2 ∧
      Frame s t { regs := [x] }) ∧
    (∃ t, exec (.andReg x y) s = .next t ∧
      (∀ j < 8, (t.reg x).getLsbD j = ((s.reg x).getLsbD j && (s.reg y).getLsbD j)) ∧ t.pc = s.pc + 2 ∧
      Frame s t { regs := [x] }) ∧
    (∃ t, exec (.xorReg x y) s = .next t ∧
      (∀ j < 8, (t.reg x).getLsbD j = ((s.reg x).getLsbD j ^^ (s.reg y).getLsbD j)) ∧ t.pc = s.pc + 2 ∧
      Frame s t { regs := [x] })

/-- R142: 7xkk adds modulo 256 and sets no flag. -/
def Obligations.AddImmediateWraps : Prop :=
  DecodesAs 0xF000 0x7000 (fun w => .addImm (fieldX w) (fieldKk w)) ∧
  ∀ (x : RegIx) (kk : Byte) (s : State), ∃ t, exec (.addImm x kk) s = .next t ∧
    (t.reg x).toNat = ((s.reg x).toNat + kk.toNat) % 256 ∧ t.pc = s.pc + 2 ∧ Frame s t { regs := [x] }

/-- 8xy4: the truncated sum in `V[x]`; the carry in VF unless VF is `V[x]`, where the sum wins (R147, R153: the order of
the two writes is the spec's decision D2). -/
def Obligations.AddSetsCarry : Prop :=
  ∀ (x y : RegIx) (s : State), ∃ t, exec (.addReg x y) s = .next t ∧
    (t.reg x).toNat = ((s.reg x).toNat + (s.reg y).toNat) % 256 ∧
    (x ≠ vf → (t.reg vf).toNat = if 255 < (s.reg x).toNat + (s.reg y).toNat then 1 else 0) ∧
    t.pc = s.pc + 2 ∧ Frame s t { regs := [x, vf] }

/-- 8xy5: VF is written with the no-borrow flag first, and the difference is then taken of the operands as that write
leaves them (R148, R153: the order is the spec's decision D2). -/
def Obligations.SubSetsNoBorrow : Prop :=
  ∀ (x y : RegIx) (s : State) (f a b : Nat), f = (if (s.reg y).toNat ≤ (s.reg x).toNat then 1 else 0) →
    a = (if x = vf then f else (s.reg x).toNat) → b = (if y = vf then f else (s.reg y).toNat) →
    ∃ t, exec (.subReg x y) s = .next t ∧ (t.reg x).toNat = (a + 256 - b) % 256 ∧
      (x ≠ vf → (t.reg vf).toNat = f) ∧ t.pc = s.pc + 2 ∧ Frame s t { regs := [x, vf] }

/-- 8xy7: as 8xy5 with the operands exchanged (R150, R153: the order is the spec's decision D2). -/
def Obligations.SubnSetsNoBorrow : Prop :=
  ∀ (x y : RegIx) (s : State) (f a b : Nat), f = (if (s.reg x).toNat ≤ (s.reg y).toNat then 1 else 0) →
    a = (if x = vf then f else (s.reg x).toNat) → b = (if y = vf then f else (s.reg y).toNat) →
    ∃ t, exec (.subn x y) s = .next t ∧ (t.reg x).toNat = (b + 256 - a) % 256 ∧
      (x ≠ vf → (t.reg vf).toNat = f) ∧ t.pc = s.pc + 2 ∧ Frame s t { regs := [x, vf] }

/-- 8xy6 and 8xyE: the bit shifted out in VF and the shifted byte in `V[x]`, whatever `V[y]` holds; with `x` VF, what the
shift makes of the flag just written (R149, R151, R153: the order is the spec's decision D2). -/
def Obligations.ShiftsSetShiftedOutBit : Prop :=
  ∀ (x y : RegIx) (s : State),
    (∃ t, exec (.shr x y) s = .next t ∧ (t.reg vf).toNat = (if x = vf then 0 else (s.reg x).toNat % 2) ∧
      (x ≠ vf → (t.reg x).toNat = (s.reg x).toNat / 2) ∧ t.pc = s.pc + 2 ∧ Frame s t { regs := [x, vf] }) ∧
    (∃ t, exec (.shl x y) s = .next t ∧
      (t.reg vf).toNat = (if x = vf then 2 * ((s.reg x).toNat / 128) else (s.reg x).toNat / 128) ∧
      (x ≠ vf → (t.reg x).toNat = (s.reg x).toNat * 2 % 256) ∧ t.pc = s.pc + 2 ∧ Frame s t { regs := [x, vf] })

/-- Cxkk: one fresh byte of RANDOM AND `kk`, so no bit that `kk` has clear is set (R152; the draw is free by the spec's
decision D18, and its byte is log entry 2's free value: the statement holds for every value of it). -/
def Obligations.RndMasksRandomByte : Prop :=
  ∀ (x : RegIx) (kk : Byte) (s : State), ∃ t, exec (.rnd x kk) s = .next t ∧
    t.reg x = Config.randomByte s.draws &&& kk ∧ (∀ j, kk.getLsbD j = false → (t.reg x).getLsbD j = false) ∧
    t.draws = s.draws + 1 ∧ t.pc = s.pc + 2 ∧ Frame s t { regs := [x], draws := true }

/-! ### The index register and memory (43_index_memory.md, 20_memory.md) -/

/-- R170: Annn puts the zero-extended address in `I`. -/
def Obligations.LdISetsIndex : Prop :=
  DecodesAs 0xF000 0xA000 (fun w => .ldI (fieldNnn w)) ∧
  ∀ (nnn : Addr12) (s : State), ∃ t, exec (.ldI nnn) s = .next t ∧ t.i.toNat = nnn.toNat ∧ t.pc = s.pc + 2 ∧
    Frame s t { i := true }

/-- Fx1E adds `V[x]` to `I` modulo 2^16 with no flag (R171, the spec's decision D9); Fx29 puts five times the whole byte
in `I` (R172, the spec's decision D28). -/
def Obligations.IndexArithmetic : Prop :=
  ∀ (x : RegIx) (s : State),
    (∃ t, exec (.addI x) s = .next t ∧ t.i.toNat = (s.i.toNat + (s.reg x).toNat) % 65536 ∧ t.pc = s.pc + 2 ∧
      Frame s t { i := true }) ∧
    (∃ t, exec (.ldF x) s = .next t ∧ t.i.toNat = 5 * (s.reg x).toNat ∧ t.pc = s.pc + 2 ∧ Frame s t { i := true })

/-- R173: Fx33 stores the hundreds, tens and ones of `V[x]` at `I`, `I + 1`, `I + 2`, or faults DATA_OUT_OF_BOUNDS when they do
not fit and writes no byte. `I` is unchanged either way (what a fault leaves and records is the spec's decisions D6 and
D7). -/
def Obligations.BcdStoresDigits : Prop :=
  DecodesAs 0xF0FF 0xF033 (fun w => .ldB (fieldX w)) ∧
  (∀ (x : RegIx) (s : State), s.mem.wf → s.i.toNat + 3 ≤ 4096 → ∃ t, exec (.ldB x) s = .next t ∧
    (t.mem.read s.i.toNat).toNat = (s.reg x).toNat / 100 ∧
    (t.mem.read (s.i.toNat + 1)).toNat = (s.reg x).toNat / 10 % 10 ∧
    (t.mem.read (s.i.toNat + 2)).toNat = (s.reg x).toNat % 10 ∧ t.pc = s.pc + 2 ∧
    Frame s t { mem := some (s.i.toNat, 3) }) ∧
  ∀ (x : RegIx) (s : State), 4096 < s.i.toNat + 3 → ∃ w : Word, w.toNat = 0xF033 + 256 * x.val ∧
    HaltsWith (exec (.ldB x) s) s .dataOutOfBounds (some w) (.access s.i 3 .write)

/-- Fx55 stores V0 to V[x] from `I` on and leaves `I` as it was, or faults and writes no byte (R174; `I` by the spec's
decision D11). -/
def Obligations.StoreRegsWritesBlock : Prop :=
  (∀ (x : RegIx) (s : State), s.mem.wf → s.i.toNat + x.val + 1 ≤ 4096 → ∃ t, exec (.storeRegs x) s = .next t ∧
    (∀ j : RegIx, j ≤ x → t.mem.read (s.i.toNat + j.val) = s.reg j) ∧ t.pc = s.pc + 2 ∧
    Frame s t { mem := some (s.i.toNat, x.val + 1) }) ∧
  ∀ (x : RegIx) (s : State), 4096 < s.i.toNat + x.val + 1 → ∃ w : Word, w.toNat = 0xF055 + 256 * x.val ∧
    HaltsWith (exec (.storeRegs x) s) s .dataOutOfBounds (some w) (.access s.i (x.val + 1) .write)

/-- Fx65 loads V0 to V[x] from `I` on and leaves the registers above `x` and `I` as they were, or faults and writes no
register (R175; `I` by the spec's decision D11). -/
def Obligations.LoadRegsReadsBlock : Prop :=
  (∀ (x : RegIx) (s : State), s.i.toNat + x.val + 1 ≤ 4096 → ∃ t, exec (.loadRegs x) s = .next t ∧
    (∀ j : RegIx, j ≤ x → t.reg j = s.mem.read (s.i.toNat + j.val)) ∧ t.pc = s.pc + 2 ∧
    Frame s t { regs := (List.finRange 16).filter (fun r => r.val ≤ x.val) }) ∧
  ∀ (x : RegIx) (s : State), 4096 < s.i.toNat + x.val + 1 → ∃ w : Word, w.toNat = 0xF065 + 256 * x.val ∧
    HaltsWith (exec (.loadRegs x) s) s .dataOutOfBounds (some w) (.access s.i (x.val + 1) .read)

/-- Self-modifying code needs no delay: an Fx55 whose block at `I` covers the two bytes at `PC + 2` makes the next fetch
read the two registers it stored there (R63, the spec's own derivation). -/
def Obligations.StoreIsSeenByNextFetch : Prop :=
  ∀ (x : RegIx) (s : State), s.mem.wf → s.i.toNat ≤ s.pc.toNat + 2 → s.pc.toNat + 3 ≤ s.i.toNat + x.val →
    s.i.toNat + x.val + 1 ≤ 4096 →
    ∃ (t : State) (w : Word) (hi lo : RegIx), exec (.storeRegs x) s = .next t ∧ t.fetch = some w ∧
      s.i.toNat + hi.val = s.pc.toNat + 2 ∧ lo.val = hi.val + 1 ∧
      w.toNat = 256 * (s.reg hi).toNat + (s.reg lo).toNat

/-! ### Keypad and timers (44_timers_keypad.md) -/

/-- Ex9E skips when the key `V[x]` is down and ExA1 when it is up; above 0x0F both fault KEY_INDEX_OUT_OF_RANGE (R190, R191;
the fault is the spec's decision D5). -/
def Obligations.KeySkips : Prop :=
  (∀ (x : RegIx) (s : State) (k : KeyIx), (s.reg x).toNat = k.val →
    (∃ t, exec (.skp x) s = .next t ∧ t.pc = (if s.key[k.val] then s.pc + 4 else s.pc + 2) ∧ Frame s t {}) ∧
    (∃ t, exec (.sknp x) s = .next t ∧ t.pc = (if s.key[k.val] then s.pc + 2 else s.pc + 4) ∧ Frame s t {})) ∧
  ∀ (x : RegIx) (s : State), 15 < (s.reg x).toNat →
    (∃ w : Word, w.toNat = 0xE09E + 256 * x.val ∧
      HaltsWith (exec (.skp x) s) s .keyIndexOutOfRange (some w) (.keyIndex (s.reg x))) ∧
    (∃ w : Word, w.toNat = 0xE0A1 + 256 * x.val ∧
      HaltsWith (exec (.sknp x) s) s .keyIndexOutOfRange (some w) (.keyIndex (s.reg x)))

/-- R192, R194: Fx07 reads the delay timer, Fx15 writes it; and Fx18 writes the sound timer. -/
def Obligations.TimerTransfers : Prop :=
  DecodesAs 0xF0FF 0xF007 (fun w => .ldVxDt (fieldX w)) ∧
  DecodesAs 0xF0FF 0xF015 (fun w => .ldDtVx (fieldX w)) ∧
  DecodesAs 0xF0FF 0xF018 (fun w => .ldStVx (fieldX w)) ∧
  ∀ (x : RegIx) (s : State),
    (∃ t, exec (.ldVxDt x) s = .next t ∧ t.reg x = s.dt ∧ t.pc = s.pc + 2 ∧ Frame s t { regs := [x] }) ∧
    (∃ t, exec (.ldDtVx x) s = .next t ∧ t.dt = s.reg x ∧ t.pc = s.pc + 2 ∧ Frame s t { dt := true }) ∧
    (∃ t, exec (.ldStVx x) s = .next t ∧ t.st = s.reg x ∧ t.pc = s.pc + 2 ∧ Frame s t { st := true })

/-- Fx0A always enters the wait, with nothing delivered and `PC` after it (R193, the spec's decision D3). -/
def Obligations.LdKEntersWait : Prop :=
  ∀ (x : RegIx) (s : State), ∃ t, exec (.ldVxK x) s = .next t ∧ t.run = .awaitingKey x ∧ t.delivered = none ∧
    t.pc = s.pc + 2 ∧ Frame s t { control := true }

/-- The key-wait protocol: steps, timer ticks, key levels and snapshots leave the wait, `PC` and the registers as they
were; after any presses, the last press delivered goes to `V[x]` by the next step, with `PC` unchanged (R196, R220, R266;
the spec's decisions D3, D4 and D24). -/
def Obligations.WaitEndsByDeliveredKeyOnly : Prop :=
  ∀ (c : Session) (x : RegIx) (cmds : List Command) (presses : List KeyIx) (k : KeyIx),
    c.block.run = .awaitingKey x → c.block.delivered = none →
    (∀ cmd ∈ cmds, cmd = .step ∨ cmd = .decrementTimers ∨ cmd = .framebufferSnapshot ∨
      ∃ p, cmd = .updateKeypad p ∧ ∀ j ∈ p, j < 16) →
    (∃ d, c.runAll cmds = .next d ∧ d.block.run = .awaitingKey x ∧ d.block.delivered = none ∧
      d.block.pc = c.block.pc ∧ ∀ r, d.block.reg r = c.block.reg r) ∧
    ∃ e, c.runAll (cmds ++ presses.map (fun j => .deliverKeyPress j.val) ++ [.deliverKeyPress k.val, .step]) = .next e ∧
      e.block.run = .running ∧ e.block.pc = c.block.pc ∧ (e.block.reg x).toNat = k.val ∧
      ∀ r, r ≠ x → e.block.reg r = c.block.reg r

/-- The sound timer is not observable: two blocks that differ only in `ST` take steps that differ only in `ST` and give
the same output (R29, the spec's decision D34). -/
def Obligations.SoundTimerIsUnobservable : Prop :=
  ∀ (s : State) (b : Byte), stepOutput { s with st := b } = stepOutput s ∧
    ∃ t u, step s = .next t ∧ step { s with st := b } = .next u ∧ { u with st := t.st } = t

/-! ### Host commands (50_host_interface.md) -/

/-- `decrement_timers` counts both timers down to zero and no further, in Running and AwaitingKey alike, and does nothing to a
Halted block (R213, the spec's decision D24). -/
def Obligations.DecrementTimersSaturates : Prop :=
  ∀ c : Session, ∃ d, c.apply .decrementTimers = .next (d, .nothing) ∧ d.loadOpen = c.loadOpen ∧
    (c.block.isHalted = true → d.block = c.block) ∧
    (c.block.isHalted = false → d.block.dt.toNat = c.block.dt.toNat - 1 ∧
      d.block.st.toNat = c.block.st.toNat - 1 ∧
      d.block.pc = c.block.pc ∧ Frame c.block d.block { dt := true, st := true })

/-- R214: `update_keypad` replaces all sixteen levels and nothing else, and does nothing to a Halted block. -/
def Obligations.UpdateKeypadReplacesLevels : Prop :=
  ∀ (c : Session) (pressed : List Nat), (∀ k ∈ pressed, k < 16) →
    ∃ d, c.apply (.updateKeypad pressed) = .next (d, .nothing) ∧ d.loadOpen = c.loadOpen ∧
      (c.block.isHalted = true → d.block = c.block) ∧
      (c.block.isHalted = false → (∀ k : KeyIx, d.block.key[k.val] = decide (k.val ∈ pressed)) ∧
        d.block = { c.block with key := d.block.key })

/-- `deliver_key_press` records the key in a wait, over an earlier one, and is a no-op otherwise (R215, the spec's
decision D4). -/
def Obligations.DeliverKeyPressOnlyInWait : Prop :=
  ∀ (c : Session) (k : KeyIx), ∃ d, c.apply (.deliverKeyPress k.val) = .next (d, .nothing) ∧ d.loadOpen = c.loadOpen ∧
    (∀ x, c.block.run = .awaitingKey x → d.block = { c.block with delivered := some k }) ∧
    ((∀ x, c.block.run ≠ .awaitingKey x) → d.block = c.block)

/-- `load_program`, while it is admitted, writes the image from 0x200 and nothing else, or faults PROGRAM_TOO_LARGE above
3584 bytes and writes nothing (R212, the spec's decisions D7 and D23). -/
def Obligations.LoadProgramWritesImage : Prop :=
  ∀ (c : Session) (image : List Byte), c.block.isHalted = false → c.loadOpen = true → c.block.mem.wf →
    (image.length ≤ 3584 → ∃ d, c.apply (.loadProgram image) = .next (d, .nothing) ∧ d.loadOpen = false ∧
      (∀ j (h : j < image.length), d.block.mem.read (0x200 + j) = image[j]) ∧ d.block.pc = c.block.pc ∧
      Frame c.block d.block { mem := some (0x200, image.length) }) ∧
    (3584 < image.length → ∃ f d, c.apply (.loadProgram image) = .next (d, .loadFaulted f) ∧
      f = { cause := .programTooLarge, pc := 0x200, opcode := none, info := .imageLength image.length } ∧
      d.block = { c.block with run := .halted f })

/-- A command that breaks a precondition of R218 is refused by name, and a step or a load closes `load_program` (the spec's
decisions D16 and D23; the order of the checks is log entry 4). -/
def Obligations.BrokenPreconditionsRefused : Prop :=
  (∀ (c : Session) (pressed : List Nat), (∃ k ∈ pressed, 16 ≤ k) →
    ∃ k ∈ pressed, 16 ≤ k ∧ c.apply (.updateKeypad pressed) = .refused (.keyIdentifier k)) ∧
  (∀ (c : Session) (key : Nat), 16 ≤ key → c.apply (.deliverKeyPress key) = .refused (.keyIdentifier key)) ∧
  (∀ (c : Session) (image : List Byte), c.block.isHalted = false → c.loadOpen = false →
    c.apply (.loadProgram image) = .refused .loadNotAdmitted) ∧
  ∀ (c d : Session) (cmd : Command) (r : Reply), cmd = .step ∨ (∃ image, cmd = .loadProgram image) →
    c.block.isHalted = false → c.apply cmd = .next (d, r) → d.loadOpen = false

/-- Halted is final: every command leaves the block as it is and a step gives the host no value; only `update_keypad` and
`deliver_key_press` with a key identifier above 0x0F are refused (R96, R219 by the spec's decision D15; log entries 4
and 5). The snapshot gives the grid and changes nothing, in every run state (R216, the spec's decision D15). -/
def Obligations.HaltedIsFinal : Prop :=
  (∀ (c : Session) (cmd : Command) (f : FaultRecord), c.block.run = .halted f →
    (∃ p k, cmd = .updateKeypad p ∧ k ∈ p ∧ 16 ≤ k ∧ c.apply cmd = .refused (.keyIdentifier k)) ∨
    (∃ k, cmd = .deliverKeyPress k ∧ 16 ≤ k ∧ c.apply cmd = .refused (.keyIdentifier k)) ∨
    ∃ d r, c.apply cmd = .next (d, r) ∧ d.block = c.block ∧ (cmd = .step → r = .stepped .noValue)) ∧
  ∀ c : Session, c.apply .framebufferSnapshot = .next (c, .grid c.block.fb)

/-! ### Reset and invariants (10_state.md R41 to R45) -/

/-- R41, R42: a block constructed with an 80-byte FONT holds it at 0x000 to 0x04F, and every other item at R41's value. -/
def Obligations.ConstructionResetValues : Prop :=
  ∀ (font : List Byte) (s : State), font.length = 80 → s = State.construct font →
    (∀ a (h : a < font.length), s.mem.read a = font[a]) ∧ (∀ a, 0x50 ≤ a → a < 4096 → s.mem.read a = 0) ∧
    (∀ x, s.reg x = 0) ∧ s.i = 0 ∧ s.pc = 0x200 ∧ (∀ j : Fin 16, s.stack[j.val] = 0) ∧ s.sp.val = 0 ∧ s.dt = 0 ∧
    s.st = 0 ∧ (∀ k : KeyIx, s.key[k.val] = false) ∧ (∀ r c, s.fb.get r c = false) ∧ s.run = .running ∧
    s.delivered = none

/-- The invariants hold right after construction, whatever FONT is, and at the state the model names reset. -/
def Obligations.ConstructionMeetsInvariants : Prop :=
  (∀ font : List Byte, SessionInv (Session.start font) ∧ PcBounded (Session.start font).block) ∧
  Inv State.reset ∧ PcBounded State.reset

/-- Every step keeps the invariant of R45 and the canonical form of memory. -/
def Obligations.StepKeepsInvariant : Prop := ∀ s t : State, Inv s → step s = .next t → Inv t

/-- Every host command keeps the invariant of R45, the canonical form of memory, and that `load_program` is closed in a
wait (the last is the model's bookkeeping of R218, log entry 4). -/
def Obligations.CommandsKeepInvariant : Prop :=
  ∀ (c d : Session) (cmd : Command) (r : Reply), SessionInv c → c.apply cmd = .next (d, r) → SessionInv d

/-- Every step keeps `PC` at or below 0x10FE and every return address at or below 0x1000, so `PC` never wraps (R24, the
spec's own derivation). -/
def Obligations.StepKeepsPcBounded : Prop := ∀ s t : State, PcBounded s → step s = .next t → PcBounded t
end

