-- ==== Sys2Proof/Laws/Memory.lean ====
section
/-! SUPPORT. What the memory operations do: a read after a write, and that each of them keeps the canonical form. -/

namespace Sys2Proof.Machine

/-- An address that no cell lists reads as its reset byte. -/
theorem Memory.read_of_not_listed {m : Memory} {a : Nat} (h : ∀ c ∈ m, c.1 ≠ a) : m.read a = Memory.unlisted a := by
  induction m with
  | nil => rfl
  | cons c m ih =>
    rw [Memory.read, if_neg (fun e => h c (by simp) e.symm)]
    exact ih (fun d hd => h d (by simp [hd]))

theorem Memory.read_consCell_other {k a : Nat} (h : a ≠ k) (b : Byte) (m : Memory) :
    (Memory.consCell (k, b) m).read a = m.read a := by
  unfold Memory.consCell
  split
  · rfl
  · simp [Memory.read, h]

theorem Memory.read_consCell_same {k : Nat} {m : Memory} (h : ∀ c ∈ m, c.1 ≠ k) (b : Byte) :
    (Memory.consCell (k, b) m).read k = b := by
  unfold Memory.consCell
  split
  · next e => rw [Memory.read_of_not_listed h]; exact e.symm
  · simp [Memory.read]

/-- A write leaves every other address alone, whatever the list (R58). -/
theorem Memory.read_write_other {a a' : Nat} (h : a' ≠ a) (b : Byte) (m : Memory) :
    (m.write a b).read a' = m.read a' := by
  induction m with
  | nil => simp [Memory.write, Memory.read_consCell_other h]
  | cons c m ih =>
    obtain ⟨k, v⟩ := c
    rw [Memory.write]
    split
    · exact Memory.read_consCell_other h b _
    · split
      · next _ e => rw [Memory.read_consCell_other h, Memory.read, if_neg (e ▸ h)]
      · simp only [Memory.read, ih]

/-- The cells behind the first of a memory in canonical form lie at higher addresses. -/
theorem Memory.wf_cons {c : Host.Cell} {m : Memory} (h : Memory.wf (c :: m)) :
    Memory.wf m ∧ ∀ d ∈ m, c.1 < d.1 :=
  ⟨⟨(List.pairwise_cons.1 h.1).2, fun d hd => h.2 d (by simp [hd])⟩, (List.pairwise_cons.1 h.1).1⟩

/-- An address reads as the last byte written to it (R61). -/
theorem Memory.read_write_same {m : Memory} (hm : m.wf) (a : Nat) (b : Byte) : (m.write a b).read a = b := by
  induction m with
  | nil => exact Memory.read_consCell_same (by simp) b
  | cons c m ih =>
    obtain ⟨k, v⟩ := c
    obtain ⟨hm', hlt⟩ := Memory.wf_cons hm
    rw [Memory.write]
    split
    · next h =>
      refine Memory.read_consCell_same (fun d hd => ?_) b
      rcases List.mem_cons.1 hd with rfl | hd
      · exact Nat.ne_of_gt h
      · have := hlt d hd
        simp only at this ⊢
        omega
    · split
      · next _ e => subst e; exact Memory.read_consCell_same (fun d hd => Nat.ne_of_gt (hlt d hd)) b
      · next _ e => rw [Memory.read, if_neg e, ih hm']

/-- A read after a write. -/
theorem Memory.read_write {m : Memory} (hm : m.wf) (a a' : Nat) (b : Byte) :
    (m.write a b).read a' = if a' = a then b else m.read a' := by
  split
  · next e => subst e; exact Memory.read_write_same hm a' b
  · next e => exact Memory.read_write_other e b m

theorem Memory.wf_consCell {k : Nat} {m : Memory} (hm : m.wf) (hk : k < Config.memSize) (hlt : ∀ c ∈ m, k < c.1)
    (b : Byte) : (Memory.consCell (k, b) m).wf := by
  unfold Memory.consCell
  split
  · exact hm
  · next h => exact ⟨List.pairwise_cons.2 ⟨hlt, hm.1⟩, List.forall_mem_cons.2 ⟨⟨hk, h⟩, hm.2⟩⟩

/-- Every address a write lists was listed before or is the one written. -/
theorem Memory.mem_write {m : Memory} {a : Nat} {b : Byte} {c : Host.Cell} (h : c ∈ m.write a b) :
    c.1 = a ∨ c ∈ m := by
  have consCase : ∀ m' : Memory, c ∈ Memory.consCell (a, b) m' → c.1 = a ∨ c ∈ m' := by
    intro m' h
    unfold Memory.consCell at h
    split at h
    · exact .inr h
    · rcases List.mem_cons.1 h with rfl | h
      · exact .inl rfl
      · exact .inr h
  induction m with
  | nil => exact consCase _ h
  | cons d m ih =>
    rw [Memory.write] at h
    split at h
    · exact consCase _ h
    · split at h
      · exact (consCase _ h).imp_right (List.mem_cons_of_mem _)
      · rcases List.mem_cons.1 h with rfl | h
        · exact .inr (by simp)
        · exact (ih h).imp_right (List.mem_cons_of_mem _)

/-- A write below `MEM_SIZE` keeps the canonical form. -/
theorem Memory.wf_write {m : Memory} (hm : m.wf) {a : Nat} (ha : a < Config.memSize) (b : Byte) : (m.write a b).wf := by
  induction m with
  | nil => exact Memory.wf_consCell hm ha (by simp) b
  | cons c m ih =>
    obtain ⟨k, v⟩ := c
    obtain ⟨hm', hlt⟩ := Memory.wf_cons hm
    rw [Memory.write]
    split
    · next h =>
      refine Memory.wf_consCell hm ha (List.forall_mem_cons.2 ⟨h, fun d hd => ?_⟩) b
      exact Nat.lt_trans h (hlt d hd)
    · split
      · next _ e => exact Memory.wf_consCell hm' ha (fun d hd => e ▸ hlt d hd) b
      · next h e =>
        refine ⟨List.pairwise_cons.2 ⟨fun d hd => ?_, (ih hm').1⟩,
          List.forall_mem_cons.2 ⟨hm.2 (k, v) (by simp), (ih hm').2⟩⟩
        rcases Memory.mem_write hd with e' | hd
        · simp only; omega
        · exact hlt d hd

/-- A block write inside memory keeps the canonical form. -/
theorem Memory.wf_writeBytes {m : Memory} (hm : m.wf) (bs : List Byte) {a : Nat}
    (ha : a + bs.length ≤ Config.memSize) : (m.writeBytes a bs).wf := by
  induction bs generalizing m a with
  | nil => exact hm
  | cons b bs ih =>
    simp only [List.length_cons] at ha
    exact ih (Memory.wf_write hm (by omega) b) (by omega)

/-- A block write leaves every address outside the block alone, whatever the list. -/
theorem Memory.read_writeBytes_outside (m : Memory) (bs : List Byte) (a a' : Nat)
    (h : ¬ (a ≤ a' ∧ a' < a + bs.length)) : (m.writeBytes a bs).read a' = m.read a' := by
  induction bs generalizing m a with
  | nil => rfl
  | cons b bs ih =>
    simp only [List.length_cons] at h
    rw [Memory.writeBytes, ih _ _ (by omega)]
    exact Memory.read_write_other (by omega) b m

/-- A block write stores its bytes in order (R13). -/
theorem Memory.read_writeBytes_inside {m : Memory} (hm : m.wf) (bs : List Byte) {a : Nat}
    (ha : a + bs.length ≤ Config.memSize) (j : Nat) (hj : j < bs.length) :
    (m.writeBytes a bs).read (a + j) = bs[j] := by
  induction bs generalizing m a j with
  | nil => simp at hj
  | cons b bs ih =>
    simp only [List.length_cons] at ha hj
    have hw := Memory.wf_write hm (show a < Config.memSize by omega) b
    cases j with
    | zero =>
      rw [Memory.writeBytes, Memory.read_writeBytes_outside _ _ _ _ (by omega)]
      exact Memory.read_write_same hm a b
    | succ j =>
      have h := ih hw (a := a + 1) (by omega) j (by omega)
      rw [Memory.writeBytes, show a + (j + 1) = a + 1 + j by omega, h]
      rfl

@[simp] theorem Memory.readBytes_length (m : Memory) (a n : Nat) : (m.readBytes a n).length = n := by
  induction n generalizing a with
  | zero => rfl
  | succ n ih => simp [Memory.readBytes, ih]

/-- A block read gives the bytes in order (R13). -/
theorem Memory.readBytes_getElem (m : Memory) (a n j : Nat) (h : j < (m.readBytes a n).length) :
    (m.readBytes a n)[j] = m.read (a + j) := by
  induction n generalizing a j with
  | zero => simp [Memory.readBytes] at h
  | succ n ih =>
    cases j with
    | zero => rfl
    | succ j =>
      simp only [Memory.readBytes, List.getElem_cons_succ, ih]
      congr 1; omega

/-- The reset memory is in canonical form. -/
theorem Memory.wf_reset : Memory.wf State.reset.mem := by simp [Memory.wf, State.reset]

end Sys2Proof.Machine
end

