-- ==== Sys2Proof/Laws/State.lean ====
section
/-! SUPPORT. One lemma per field per update of State, true by rfl, so that no proof unfolds a record update; and the
general registers after each update. -/

namespace Sys2Proof.Machine

variable (s : State)

/-! ### setReg -/

@[simp] theorem State.setReg_mem (x : RegIx) (b : Byte) : (s.setReg x b).mem = s.mem := rfl
@[simp] theorem State.setReg_v (x : RegIx) (b : Byte) : (s.setReg x b).v = s.v.set x.val b := rfl
@[simp] theorem State.setReg_i (x : RegIx) (b : Byte) : (s.setReg x b).i = s.i := rfl
@[simp] theorem State.setReg_pc (x : RegIx) (b : Byte) : (s.setReg x b).pc = s.pc := rfl
@[simp] theorem State.setReg_stack (x : RegIx) (b : Byte) : (s.setReg x b).stack = s.stack := rfl
@[simp] theorem State.setReg_sp (x : RegIx) (b : Byte) : (s.setReg x b).sp = s.sp := rfl
@[simp] theorem State.setReg_dt (x : RegIx) (b : Byte) : (s.setReg x b).dt = s.dt := rfl
@[simp] theorem State.setReg_st (x : RegIx) (b : Byte) : (s.setReg x b).st = s.st := rfl
@[simp] theorem State.setReg_key (x : RegIx) (b : Byte) : (s.setReg x b).key = s.key := rfl
@[simp] theorem State.setReg_fb (x : RegIx) (b : Byte) : (s.setReg x b).fb = s.fb := rfl
@[simp] theorem State.setReg_run (x : RegIx) (b : Byte) : (s.setReg x b).run = s.run := rfl
@[simp] theorem State.setReg_delivered (x : RegIx) (b : Byte) : (s.setReg x b).delivered = s.delivered := rfl
@[simp] theorem State.setReg_draws (x : RegIx) (b : Byte) : (s.setReg x b).draws = s.draws := rfl

/-! ### setRegs -/

@[simp] theorem State.setRegs_mem (bs : List Byte) : (s.setRegs bs).mem = s.mem := rfl
@[simp] theorem State.setRegs_v (bs : List Byte) : (s.setRegs bs).v = writeRegs s.v 0 bs := rfl
@[simp] theorem State.setRegs_i (bs : List Byte) : (s.setRegs bs).i = s.i := rfl
@[simp] theorem State.setRegs_pc (bs : List Byte) : (s.setRegs bs).pc = s.pc := rfl
@[simp] theorem State.setRegs_stack (bs : List Byte) : (s.setRegs bs).stack = s.stack := rfl
@[simp] theorem State.setRegs_sp (bs : List Byte) : (s.setRegs bs).sp = s.sp := rfl
@[simp] theorem State.setRegs_dt (bs : List Byte) : (s.setRegs bs).dt = s.dt := rfl
@[simp] theorem State.setRegs_st (bs : List Byte) : (s.setRegs bs).st = s.st := rfl
@[simp] theorem State.setRegs_key (bs : List Byte) : (s.setRegs bs).key = s.key := rfl
@[simp] theorem State.setRegs_fb (bs : List Byte) : (s.setRegs bs).fb = s.fb := rfl
@[simp] theorem State.setRegs_run (bs : List Byte) : (s.setRegs bs).run = s.run := rfl
@[simp] theorem State.setRegs_delivered (bs : List Byte) : (s.setRegs bs).delivered = s.delivered := rfl
@[simp] theorem State.setRegs_draws (bs : List Byte) : (s.setRegs bs).draws = s.draws := rfl

/-! ### setPc -/

@[simp] theorem State.setPc_mem (a : Word) : (s.setPc a).mem = s.mem := rfl
@[simp] theorem State.setPc_v (a : Word) : (s.setPc a).v = s.v := rfl
@[simp] theorem State.setPc_i (a : Word) : (s.setPc a).i = s.i := rfl
@[simp] theorem State.setPc_pc (a : Word) : (s.setPc a).pc = a := rfl
@[simp] theorem State.setPc_stack (a : Word) : (s.setPc a).stack = s.stack := rfl
@[simp] theorem State.setPc_sp (a : Word) : (s.setPc a).sp = s.sp := rfl
@[simp] theorem State.setPc_dt (a : Word) : (s.setPc a).dt = s.dt := rfl
@[simp] theorem State.setPc_st (a : Word) : (s.setPc a).st = s.st := rfl
@[simp] theorem State.setPc_key (a : Word) : (s.setPc a).key = s.key := rfl
@[simp] theorem State.setPc_fb (a : Word) : (s.setPc a).fb = s.fb := rfl
@[simp] theorem State.setPc_run (a : Word) : (s.setPc a).run = s.run := rfl
@[simp] theorem State.setPc_delivered (a : Word) : (s.setPc a).delivered = s.delivered := rfl
@[simp] theorem State.setPc_draws (a : Word) : (s.setPc a).draws = s.draws := rfl
@[simp] theorem State.setPc_reg (a : Word) (x : RegIx) : (s.setPc a).reg x = s.reg x := rfl

/-! ### advance -/

@[simp] theorem State.advance_mem : (s.advance).mem = s.mem := rfl
@[simp] theorem State.advance_v : (s.advance).v = s.v := rfl
@[simp] theorem State.advance_i : (s.advance).i = s.i := rfl
@[simp] theorem State.advance_pc : (s.advance).pc = s.pc + 2 := rfl
@[simp] theorem State.advance_stack : (s.advance).stack = s.stack := rfl
@[simp] theorem State.advance_sp : (s.advance).sp = s.sp := rfl
@[simp] theorem State.advance_dt : (s.advance).dt = s.dt := rfl
@[simp] theorem State.advance_st : (s.advance).st = s.st := rfl
@[simp] theorem State.advance_key : (s.advance).key = s.key := rfl
@[simp] theorem State.advance_fb : (s.advance).fb = s.fb := rfl
@[simp] theorem State.advance_run : (s.advance).run = s.run := rfl
@[simp] theorem State.advance_delivered : (s.advance).delivered = s.delivered := rfl
@[simp] theorem State.advance_draws : (s.advance).draws = s.draws := rfl
@[simp] theorem State.advance_reg (x : RegIx) : (s.advance).reg x = s.reg x := rfl

/-! ### setI -/

@[simp] theorem State.setI_mem (a : Word) : (s.setI a).mem = s.mem := rfl
@[simp] theorem State.setI_v (a : Word) : (s.setI a).v = s.v := rfl
@[simp] theorem State.setI_i (a : Word) : (s.setI a).i = a := rfl
@[simp] theorem State.setI_pc (a : Word) : (s.setI a).pc = s.pc := rfl
@[simp] theorem State.setI_stack (a : Word) : (s.setI a).stack = s.stack := rfl
@[simp] theorem State.setI_sp (a : Word) : (s.setI a).sp = s.sp := rfl
@[simp] theorem State.setI_dt (a : Word) : (s.setI a).dt = s.dt := rfl
@[simp] theorem State.setI_st (a : Word) : (s.setI a).st = s.st := rfl
@[simp] theorem State.setI_key (a : Word) : (s.setI a).key = s.key := rfl
@[simp] theorem State.setI_fb (a : Word) : (s.setI a).fb = s.fb := rfl
@[simp] theorem State.setI_run (a : Word) : (s.setI a).run = s.run := rfl
@[simp] theorem State.setI_delivered (a : Word) : (s.setI a).delivered = s.delivered := rfl
@[simp] theorem State.setI_draws (a : Word) : (s.setI a).draws = s.draws := rfl
@[simp] theorem State.setI_reg (a : Word) (x : RegIx) : (s.setI a).reg x = s.reg x := rfl

/-! ### setDt -/

@[simp] theorem State.setDt_mem (b : Byte) : (s.setDt b).mem = s.mem := rfl
@[simp] theorem State.setDt_v (b : Byte) : (s.setDt b).v = s.v := rfl
@[simp] theorem State.setDt_i (b : Byte) : (s.setDt b).i = s.i := rfl
@[simp] theorem State.setDt_pc (b : Byte) : (s.setDt b).pc = s.pc := rfl
@[simp] theorem State.setDt_stack (b : Byte) : (s.setDt b).stack = s.stack := rfl
@[simp] theorem State.setDt_sp (b : Byte) : (s.setDt b).sp = s.sp := rfl
@[simp] theorem State.setDt_dt (b : Byte) : (s.setDt b).dt = b := rfl
@[simp] theorem State.setDt_st (b : Byte) : (s.setDt b).st = s.st := rfl
@[simp] theorem State.setDt_key (b : Byte) : (s.setDt b).key = s.key := rfl
@[simp] theorem State.setDt_fb (b : Byte) : (s.setDt b).fb = s.fb := rfl
@[simp] theorem State.setDt_run (b : Byte) : (s.setDt b).run = s.run := rfl
@[simp] theorem State.setDt_delivered (b : Byte) : (s.setDt b).delivered = s.delivered := rfl
@[simp] theorem State.setDt_draws (b : Byte) : (s.setDt b).draws = s.draws := rfl
@[simp] theorem State.setDt_reg (b : Byte) (x : RegIx) : (s.setDt b).reg x = s.reg x := rfl

/-! ### setSt -/

@[simp] theorem State.setSt_mem (b : Byte) : (s.setSt b).mem = s.mem := rfl
@[simp] theorem State.setSt_v (b : Byte) : (s.setSt b).v = s.v := rfl
@[simp] theorem State.setSt_i (b : Byte) : (s.setSt b).i = s.i := rfl
@[simp] theorem State.setSt_pc (b : Byte) : (s.setSt b).pc = s.pc := rfl
@[simp] theorem State.setSt_stack (b : Byte) : (s.setSt b).stack = s.stack := rfl
@[simp] theorem State.setSt_sp (b : Byte) : (s.setSt b).sp = s.sp := rfl
@[simp] theorem State.setSt_dt (b : Byte) : (s.setSt b).dt = s.dt := rfl
@[simp] theorem State.setSt_st (b : Byte) : (s.setSt b).st = b := rfl
@[simp] theorem State.setSt_key (b : Byte) : (s.setSt b).key = s.key := rfl
@[simp] theorem State.setSt_fb (b : Byte) : (s.setSt b).fb = s.fb := rfl
@[simp] theorem State.setSt_run (b : Byte) : (s.setSt b).run = s.run := rfl
@[simp] theorem State.setSt_delivered (b : Byte) : (s.setSt b).delivered = s.delivered := rfl
@[simp] theorem State.setSt_draws (b : Byte) : (s.setSt b).draws = s.draws := rfl
@[simp] theorem State.setSt_reg (b : Byte) (x : RegIx) : (s.setSt b).reg x = s.reg x := rfl

/-! ### setMem -/

@[simp] theorem State.setMem_mem (m : Memory) : (s.setMem m).mem = m := rfl
@[simp] theorem State.setMem_v (m : Memory) : (s.setMem m).v = s.v := rfl
@[simp] theorem State.setMem_i (m : Memory) : (s.setMem m).i = s.i := rfl
@[simp] theorem State.setMem_pc (m : Memory) : (s.setMem m).pc = s.pc := rfl
@[simp] theorem State.setMem_stack (m : Memory) : (s.setMem m).stack = s.stack := rfl
@[simp] theorem State.setMem_sp (m : Memory) : (s.setMem m).sp = s.sp := rfl
@[simp] theorem State.setMem_dt (m : Memory) : (s.setMem m).dt = s.dt := rfl
@[simp] theorem State.setMem_st (m : Memory) : (s.setMem m).st = s.st := rfl
@[simp] theorem State.setMem_key (m : Memory) : (s.setMem m).key = s.key := rfl
@[simp] theorem State.setMem_fb (m : Memory) : (s.setMem m).fb = s.fb := rfl
@[simp] theorem State.setMem_run (m : Memory) : (s.setMem m).run = s.run := rfl
@[simp] theorem State.setMem_delivered (m : Memory) : (s.setMem m).delivered = s.delivered := rfl
@[simp] theorem State.setMem_draws (m : Memory) : (s.setMem m).draws = s.draws := rfl
@[simp] theorem State.setMem_reg (m : Memory) (x : RegIx) : (s.setMem m).reg x = s.reg x := rfl

/-! ### setFb -/

@[simp] theorem State.setFb_mem (g : Grid) : (s.setFb g).mem = s.mem := rfl
@[simp] theorem State.setFb_v (g : Grid) : (s.setFb g).v = s.v := rfl
@[simp] theorem State.setFb_i (g : Grid) : (s.setFb g).i = s.i := rfl
@[simp] theorem State.setFb_pc (g : Grid) : (s.setFb g).pc = s.pc := rfl
@[simp] theorem State.setFb_stack (g : Grid) : (s.setFb g).stack = s.stack := rfl
@[simp] theorem State.setFb_sp (g : Grid) : (s.setFb g).sp = s.sp := rfl
@[simp] theorem State.setFb_dt (g : Grid) : (s.setFb g).dt = s.dt := rfl
@[simp] theorem State.setFb_st (g : Grid) : (s.setFb g).st = s.st := rfl
@[simp] theorem State.setFb_key (g : Grid) : (s.setFb g).key = s.key := rfl
@[simp] theorem State.setFb_fb (g : Grid) : (s.setFb g).fb = g := rfl
@[simp] theorem State.setFb_run (g : Grid) : (s.setFb g).run = s.run := rfl
@[simp] theorem State.setFb_delivered (g : Grid) : (s.setFb g).delivered = s.delivered := rfl
@[simp] theorem State.setFb_draws (g : Grid) : (s.setFb g).draws = s.draws := rfl
@[simp] theorem State.setFb_reg (g : Grid) (x : RegIx) : (s.setFb g).reg x = s.reg x := rfl

/-! ### setKey -/

@[simp] theorem State.setKey_mem (k : Vector Bool 16) : (s.setKey k).mem = s.mem := rfl
@[simp] theorem State.setKey_v (k : Vector Bool 16) : (s.setKey k).v = s.v := rfl
@[simp] theorem State.setKey_i (k : Vector Bool 16) : (s.setKey k).i = s.i := rfl
@[simp] theorem State.setKey_pc (k : Vector Bool 16) : (s.setKey k).pc = s.pc := rfl
@[simp] theorem State.setKey_stack (k : Vector Bool 16) : (s.setKey k).stack = s.stack := rfl
@[simp] theorem State.setKey_sp (k : Vector Bool 16) : (s.setKey k).sp = s.sp := rfl
@[simp] theorem State.setKey_dt (k : Vector Bool 16) : (s.setKey k).dt = s.dt := rfl
@[simp] theorem State.setKey_st (k : Vector Bool 16) : (s.setKey k).st = s.st := rfl
@[simp] theorem State.setKey_key (k : Vector Bool 16) : (s.setKey k).key = k := rfl
@[simp] theorem State.setKey_fb (k : Vector Bool 16) : (s.setKey k).fb = s.fb := rfl
@[simp] theorem State.setKey_run (k : Vector Bool 16) : (s.setKey k).run = s.run := rfl
@[simp] theorem State.setKey_delivered (k : Vector Bool 16) : (s.setKey k).delivered = s.delivered := rfl
@[simp] theorem State.setKey_draws (k : Vector Bool 16) : (s.setKey k).draws = s.draws := rfl
@[simp] theorem State.setKey_reg (k : Vector Bool 16) (x : RegIx) : (s.setKey k).reg x = s.reg x := rfl

/-! ### setRun -/

@[simp] theorem State.setRun_mem (r : RunState) : (s.setRun r).mem = s.mem := rfl
@[simp] theorem State.setRun_v (r : RunState) : (s.setRun r).v = s.v := rfl
@[simp] theorem State.setRun_i (r : RunState) : (s.setRun r).i = s.i := rfl
@[simp] theorem State.setRun_pc (r : RunState) : (s.setRun r).pc = s.pc := rfl
@[simp] theorem State.setRun_stack (r : RunState) : (s.setRun r).stack = s.stack := rfl
@[simp] theorem State.setRun_sp (r : RunState) : (s.setRun r).sp = s.sp := rfl
@[simp] theorem State.setRun_dt (r : RunState) : (s.setRun r).dt = s.dt := rfl
@[simp] theorem State.setRun_st (r : RunState) : (s.setRun r).st = s.st := rfl
@[simp] theorem State.setRun_key (r : RunState) : (s.setRun r).key = s.key := rfl
@[simp] theorem State.setRun_fb (r : RunState) : (s.setRun r).fb = s.fb := rfl
@[simp] theorem State.setRun_run (r : RunState) : (s.setRun r).run = r := rfl
@[simp] theorem State.setRun_delivered (r : RunState) : (s.setRun r).delivered = s.delivered := rfl
@[simp] theorem State.setRun_draws (r : RunState) : (s.setRun r).draws = s.draws := rfl
@[simp] theorem State.setRun_reg (r : RunState) (x : RegIx) : (s.setRun r).reg x = s.reg x := rfl

/-! ### setDelivered -/

@[simp] theorem State.setDelivered_mem (d : Option KeyIx) : (s.setDelivered d).mem = s.mem := rfl
@[simp] theorem State.setDelivered_v (d : Option KeyIx) : (s.setDelivered d).v = s.v := rfl
@[simp] theorem State.setDelivered_i (d : Option KeyIx) : (s.setDelivered d).i = s.i := rfl
@[simp] theorem State.setDelivered_pc (d : Option KeyIx) : (s.setDelivered d).pc = s.pc := rfl
@[simp] theorem State.setDelivered_stack (d : Option KeyIx) : (s.setDelivered d).stack = s.stack := rfl
@[simp] theorem State.setDelivered_sp (d : Option KeyIx) : (s.setDelivered d).sp = s.sp := rfl
@[simp] theorem State.setDelivered_dt (d : Option KeyIx) : (s.setDelivered d).dt = s.dt := rfl
@[simp] theorem State.setDelivered_st (d : Option KeyIx) : (s.setDelivered d).st = s.st := rfl
@[simp] theorem State.setDelivered_key (d : Option KeyIx) : (s.setDelivered d).key = s.key := rfl
@[simp] theorem State.setDelivered_fb (d : Option KeyIx) : (s.setDelivered d).fb = s.fb := rfl
@[simp] theorem State.setDelivered_run (d : Option KeyIx) : (s.setDelivered d).run = s.run := rfl
@[simp] theorem State.setDelivered_delivered (d : Option KeyIx) : (s.setDelivered d).delivered = d := rfl
@[simp] theorem State.setDelivered_draws (d : Option KeyIx) : (s.setDelivered d).draws = s.draws := rfl
@[simp] theorem State.setDelivered_reg (d : Option KeyIx) (x : RegIx) : (s.setDelivered d).reg x = s.reg x := rfl

/-! ### drawn -/

@[simp] theorem State.drawn_mem : (s.drawn).mem = s.mem := rfl
@[simp] theorem State.drawn_v : (s.drawn).v = s.v := rfl
@[simp] theorem State.drawn_i : (s.drawn).i = s.i := rfl
@[simp] theorem State.drawn_pc : (s.drawn).pc = s.pc := rfl
@[simp] theorem State.drawn_stack : (s.drawn).stack = s.stack := rfl
@[simp] theorem State.drawn_sp : (s.drawn).sp = s.sp := rfl
@[simp] theorem State.drawn_dt : (s.drawn).dt = s.dt := rfl
@[simp] theorem State.drawn_st : (s.drawn).st = s.st := rfl
@[simp] theorem State.drawn_key : (s.drawn).key = s.key := rfl
@[simp] theorem State.drawn_fb : (s.drawn).fb = s.fb := rfl
@[simp] theorem State.drawn_run : (s.drawn).run = s.run := rfl
@[simp] theorem State.drawn_delivered : (s.drawn).delivered = s.delivered := rfl
@[simp] theorem State.drawn_draws : (s.drawn).draws = s.draws + 1 := rfl
@[simp] theorem State.drawn_reg (x : RegIx) : (s.drawn).reg x = s.reg x := rfl

/-! ### push -/

@[simp] theorem State.push_mem (w : Word) : (s.push w).mem = s.mem := rfl
@[simp] theorem State.push_v (w : Word) : (s.push w).v = s.v := rfl
@[simp] theorem State.push_i (w : Word) : (s.push w).i = s.i := rfl
@[simp] theorem State.push_pc (w : Word) : (s.push w).pc = s.pc := rfl
@[simp] theorem State.push_stack (w : Word) : (s.push w).stack = s.stack.setIfInBounds s.sp.val w := rfl
@[simp] theorem State.push_dt (w : Word) : (s.push w).dt = s.dt := rfl
@[simp] theorem State.push_st (w : Word) : (s.push w).st = s.st := rfl
@[simp] theorem State.push_key (w : Word) : (s.push w).key = s.key := rfl
@[simp] theorem State.push_fb (w : Word) : (s.push w).fb = s.fb := rfl
@[simp] theorem State.push_run (w : Word) : (s.push w).run = s.run := rfl
@[simp] theorem State.push_delivered (w : Word) : (s.push w).delivered = s.delivered := rfl
@[simp] theorem State.push_draws (w : Word) : (s.push w).draws = s.draws := rfl
@[simp] theorem State.push_sp_val (w : Word) : (s.push w).sp.val = min (s.sp.val + 1) 16 := rfl
@[simp] theorem State.push_reg (w : Word) (x : RegIx) : (s.push w).reg x = s.reg x := rfl

/-! ### pop -/

@[simp] theorem State.pop_mem : (s.pop).mem = s.mem := rfl
@[simp] theorem State.pop_v : (s.pop).v = s.v := rfl
@[simp] theorem State.pop_i : (s.pop).i = s.i := rfl
@[simp] theorem State.pop_pc : (s.pop).pc = s.pc := rfl
@[simp] theorem State.pop_stack : (s.pop).stack = s.stack := rfl
@[simp] theorem State.pop_dt : (s.pop).dt = s.dt := rfl
@[simp] theorem State.pop_st : (s.pop).st = s.st := rfl
@[simp] theorem State.pop_key : (s.pop).key = s.key := rfl
@[simp] theorem State.pop_fb : (s.pop).fb = s.fb := rfl
@[simp] theorem State.pop_run : (s.pop).run = s.run := rfl
@[simp] theorem State.pop_delivered : (s.pop).delivered = s.delivered := rfl
@[simp] theorem State.pop_draws : (s.pop).draws = s.draws := rfl
@[simp] theorem State.pop_sp_val : (s.pop).sp.val = s.sp.val - 1 := rfl
@[simp] theorem State.pop_reg (x : RegIx) : (s.pop).reg x = s.reg x := rfl

/-! ### halt -/

@[simp] theorem State.halt_mem (f : FaultRecord) : (s.halt f).mem = s.mem := rfl
@[simp] theorem State.halt_v (f : FaultRecord) : (s.halt f).v = s.v := rfl
@[simp] theorem State.halt_i (f : FaultRecord) : (s.halt f).i = s.i := rfl
@[simp] theorem State.halt_pc (f : FaultRecord) : (s.halt f).pc = s.pc := rfl
@[simp] theorem State.halt_stack (f : FaultRecord) : (s.halt f).stack = s.stack := rfl
@[simp] theorem State.halt_sp (f : FaultRecord) : (s.halt f).sp = s.sp := rfl
@[simp] theorem State.halt_dt (f : FaultRecord) : (s.halt f).dt = s.dt := rfl
@[simp] theorem State.halt_st (f : FaultRecord) : (s.halt f).st = s.st := rfl
@[simp] theorem State.halt_key (f : FaultRecord) : (s.halt f).key = s.key := rfl
@[simp] theorem State.halt_fb (f : FaultRecord) : (s.halt f).fb = s.fb := rfl
@[simp] theorem State.halt_run (f : FaultRecord) : (s.halt f).run = .halted f := rfl
@[simp] theorem State.halt_delivered (f : FaultRecord) : (s.halt f).delivered = s.delivered := rfl
@[simp] theorem State.halt_draws (f : FaultRecord) : (s.halt f).draws = s.draws := rfl
@[simp] theorem State.halt_reg (f : FaultRecord) (x : RegIx) : (s.halt f).reg x = s.reg x := rfl

/-! ### takeFault -/

@[simp] theorem State.takeFault_mem (c : FaultCause) (o : Option Word) (n : FaultInfo) : (s.takeFault c o n).mem = s.mem := rfl
@[simp] theorem State.takeFault_v (c : FaultCause) (o : Option Word) (n : FaultInfo) : (s.takeFault c o n).v = s.v := rfl
@[simp] theorem State.takeFault_i (c : FaultCause) (o : Option Word) (n : FaultInfo) : (s.takeFault c o n).i = s.i := rfl
@[simp] theorem State.takeFault_pc (c : FaultCause) (o : Option Word) (n : FaultInfo) : (s.takeFault c o n).pc = s.pc := rfl
@[simp] theorem State.takeFault_stack (c : FaultCause) (o : Option Word) (n : FaultInfo) : (s.takeFault c o n).stack = s.stack := rfl
@[simp] theorem State.takeFault_sp (c : FaultCause) (o : Option Word) (n : FaultInfo) : (s.takeFault c o n).sp = s.sp := rfl
@[simp] theorem State.takeFault_dt (c : FaultCause) (o : Option Word) (n : FaultInfo) : (s.takeFault c o n).dt = s.dt := rfl
@[simp] theorem State.takeFault_st (c : FaultCause) (o : Option Word) (n : FaultInfo) : (s.takeFault c o n).st = s.st := rfl
@[simp] theorem State.takeFault_key (c : FaultCause) (o : Option Word) (n : FaultInfo) : (s.takeFault c o n).key = s.key := rfl
@[simp] theorem State.takeFault_fb (c : FaultCause) (o : Option Word) (n : FaultInfo) : (s.takeFault c o n).fb = s.fb := rfl
@[simp] theorem State.takeFault_run (c : FaultCause) (o : Option Word) (n : FaultInfo) : (s.takeFault c o n).run = .halted { cause := c, pc := s.pc, opcode := o, info := n } := rfl
@[simp] theorem State.takeFault_delivered (c : FaultCause) (o : Option Word) (n : FaultInfo) : (s.takeFault c o n).delivered = s.delivered := rfl
@[simp] theorem State.takeFault_draws (c : FaultCause) (o : Option Word) (n : FaultInfo) : (s.takeFault c o n).draws = s.draws := rfl
@[simp] theorem State.takeFault_reg (c : FaultCause) (o : Option Word) (n : FaultInfo) (x : RegIx) : (s.takeFault c o n).reg x = s.reg x := rfl

/-! ### skipIf -/

@[simp] theorem State.skipIf_mem (c : Bool) : (s.skipIf c).mem = s.mem := by cases c <;> rfl
@[simp] theorem State.skipIf_v (c : Bool) : (s.skipIf c).v = s.v := by cases c <;> rfl
@[simp] theorem State.skipIf_i (c : Bool) : (s.skipIf c).i = s.i := by cases c <;> rfl
theorem State.skipIf_pc (c : Bool) : (s.skipIf c).pc = if c then s.pc + 2 else s.pc := by cases c <;> rfl
@[simp] theorem State.skipIf_stack (c : Bool) : (s.skipIf c).stack = s.stack := by cases c <;> rfl
@[simp] theorem State.skipIf_sp (c : Bool) : (s.skipIf c).sp = s.sp := by cases c <;> rfl
@[simp] theorem State.skipIf_dt (c : Bool) : (s.skipIf c).dt = s.dt := by cases c <;> rfl
@[simp] theorem State.skipIf_st (c : Bool) : (s.skipIf c).st = s.st := by cases c <;> rfl
@[simp] theorem State.skipIf_key (c : Bool) : (s.skipIf c).key = s.key := by cases c <;> rfl
@[simp] theorem State.skipIf_fb (c : Bool) : (s.skipIf c).fb = s.fb := by cases c <;> rfl
@[simp] theorem State.skipIf_run (c : Bool) : (s.skipIf c).run = s.run := by cases c <;> rfl
@[simp] theorem State.skipIf_delivered (c : Bool) : (s.skipIf c).delivered = s.delivered := by cases c <;> rfl
@[simp] theorem State.skipIf_draws (c : Bool) : (s.skipIf c).draws = s.draws := by cases c <;> rfl
@[simp] theorem State.skipIf_reg (c : Bool) (x : RegIx) : (s.skipIf c).reg x = s.reg x := by cases c <;> rfl

/-! ### flagThen -/

@[simp] theorem State.flagThen_mem (b : Byte) (x : RegIx) (g : State → Byte) : (s.flagThen b x g).mem = s.mem := rfl
@[simp] theorem State.flagThen_i (b : Byte) (x : RegIx) (g : State → Byte) : (s.flagThen b x g).i = s.i := rfl
@[simp] theorem State.flagThen_pc (b : Byte) (x : RegIx) (g : State → Byte) : (s.flagThen b x g).pc = s.pc := rfl
@[simp] theorem State.flagThen_stack (b : Byte) (x : RegIx) (g : State → Byte) : (s.flagThen b x g).stack = s.stack := rfl
@[simp] theorem State.flagThen_sp (b : Byte) (x : RegIx) (g : State → Byte) : (s.flagThen b x g).sp = s.sp := rfl
@[simp] theorem State.flagThen_dt (b : Byte) (x : RegIx) (g : State → Byte) : (s.flagThen b x g).dt = s.dt := rfl
@[simp] theorem State.flagThen_st (b : Byte) (x : RegIx) (g : State → Byte) : (s.flagThen b x g).st = s.st := rfl
@[simp] theorem State.flagThen_key (b : Byte) (x : RegIx) (g : State → Byte) : (s.flagThen b x g).key = s.key := rfl
@[simp] theorem State.flagThen_fb (b : Byte) (x : RegIx) (g : State → Byte) : (s.flagThen b x g).fb = s.fb := rfl
@[simp] theorem State.flagThen_run (b : Byte) (x : RegIx) (g : State → Byte) : (s.flagThen b x g).run = s.run := rfl
@[simp] theorem State.flagThen_delivered (b : Byte) (x : RegIx) (g : State → Byte) : (s.flagThen b x g).delivered = s.delivered := rfl
@[simp] theorem State.flagThen_draws (b : Byte) (x : RegIx) (g : State → Byte) : (s.flagThen b x g).draws = s.draws := rfl

/-! ### The general registers (10_state.md R21) -/

/-- A register reads the last value written to it, and a write leaves every other register alone (R21). -/
theorem State.reg_setReg (x y : RegIx) (b : Byte) : (s.setReg x b).reg y = if y = x then b else s.reg y := by
  simp only [State.reg, State.setReg, Vector.getElem_set, Fin.ext_iff, eq_comm]

@[simp] theorem State.reg_setReg_same (x : RegIx) (b : Byte) : (s.setReg x b).reg x = b := by
  simp [State.reg_setReg]

theorem State.reg_setReg_other {s : State} {x y : RegIx} (h : y ≠ x) (b : Byte) : (s.setReg x b).reg y = s.reg y := by
  simp [State.reg_setReg, h]

/-- The registers after a flag-writing rule (R95): the result at `x`, the flag at VF unless `x` is VF, others as before. -/
theorem State.reg_flagThen (b : Byte) (x y : RegIx) (g : State → Byte) :
    (s.flagThen b x g).reg y = if y = x then g (s.setReg vf b) else if y = vf then b else s.reg y := by
  simp only [State.flagThen, State.reg_setReg]

/-- Element `r` of the register file after a block write from `j` (R175). -/
theorem writeRegs_getElem (bs : List Byte) (v : Vector Byte 16) (j r : Nat) (hr : r < 16) :
    (writeRegs v j bs)[r] = if h : j ≤ r ∧ r - j < bs.length then bs[r - j] else v[r] := by
  induction bs generalizing v j with
  | nil => simp [writeRegs]
  | cons b bs ih =>
    rw [writeRegs, ih]
    by_cases h1 : r = j
    · subst h1
      simp
    · by_cases h2 : j + 1 ≤ r ∧ r - (j + 1) < bs.length
      · have h3 : j ≤ r ∧ r - j < (b :: bs).length := by simp only [List.length_cons]; omega
        have h4 : r - j = (r - (j + 1)) + 1 := by omega
        simp only [h2, h3, and_self, dite_true]
        simp only [h4, List.getElem_cons_succ]
      · have h3 : ¬ (j ≤ r ∧ r - j < (b :: bs).length) := by simp only [List.length_cons]; omega
        simp only [h2, h3, dite_false]
        rw [Vector.getElem_setIfInBounds]
        simp [Ne.symm h1]

/-- The registers after a block write from V0 (R175). -/
theorem State.reg_setRegs (bs : List Byte) (x : RegIx) :
    (s.setRegs bs).reg x = if h : x.val < bs.length then bs[x.val] else s.reg x := by
  have h := writeRegs_getElem bs s.v 0 x.val x.isLt
  simpa [State.reg, State.setRegs] using h

/-- The list V[0], …, V[x] (R174). -/
@[simp] theorem State.regsUpTo_length (x : RegIx) : (s.regsUpTo x).length = x.val + 1 := by
  simp [State.regsUpTo]

theorem State.regsUpTo_getElem (x : RegIx) (j : Nat) (h : j < (s.regsUpTo x).length) :
    (s.regsUpTo x)[j] = s.reg ⟨j, by have := x.isLt; simp at h; omega⟩ := by
  simp [State.regsUpTo, State.reg]

end Sys2Proof.Machine
end

