-- ==== Sys2Proof/Laws/Ops.lean ====
section
/-! SUPPORT. For each shared operation that can fault, one lemma that says everything it can do. -/

namespace Sys2Proof.Machine

/-- The range check as numbers (R54). -/
theorem inRange_iff (a : Word) (len : Nat) : inRange a len = true ↔ a.toNat + len ≤ 4096 := by simp [inRange]

/-- A block access at `I` that is in range has its effect (R54). -/
theorem checkedAtI_ok {s : State} {len : Nat} (h : s.i.toNat + len ≤ 4096) (w : Word) (k : AccessKind) (done : State) :
    checkedAtI s w len k done = .next done := by
  rw [checkedAtI, if_pos ((inRange_iff _ _).2 h)]

/-- A block access at `I` that leaves memory takes DATA_OUT_OF_BOUNDS (R54, R230). -/
theorem checkedAtI_fault {s : State} {len : Nat} (h : 4096 < s.i.toNat + len) (w : Word) (k : AccessKind) (done : State) :
    checkedAtI s w len k done = .next (s.takeFault .dataOutOfBounds (some w) (.access s.i len k)) := by
  rw [checkedAtI, if_neg (fun e => by have := (inRange_iff _ _).1 e; omega)]; rfl

/-- Everything a block access at `I` can do. -/
theorem checkedAtI_cases {s t : State} {w : Word} {len : Nat} {k : AccessKind} {done : State}
    (h : checkedAtI s w len k done = .next t) :
    (s.i.toNat + len ≤ 4096 ∧ t = done) ∨
      (4096 < s.i.toNat + len ∧ t = s.takeFault .dataOutOfBounds (some w) (.access s.i len k)) := by
  by_cases hr : s.i.toNat + len ≤ 4096
  · rw [checkedAtI_ok hr] at h; cases h; exact .inl ⟨hr, rfl⟩
  · rw [checkedAtI_fault (by omega)] at h; cases h; exact .inr ⟨by omega, rfl⟩

/-- The level of a logical key (R30). -/
theorem State.keyLevel_some {s : State} {k : Byte} (h : k.toNat < 16) : s.keyLevel k = some s.key[k.toNat] := by
  simp [State.keyLevel, h]

/-- There is no key above 0x0F (R190). -/
theorem State.keyLevel_none {s : State} {k : Byte} (h : 16 ≤ k.toNat) : s.keyLevel k = none := by
  simp [State.keyLevel, h]

/-- Everything the key check of Ex9E and ExA1 can do (R190, R191). -/
theorem checkedKey_cases {s t : State} {w : Word} {x : RegIx} {done : Bool → State}
    (h : checkedKey s w x done = .next t) :
    (∃ hk : (s.reg x).toNat < 16, t = done s.key[(s.reg x).toNat]) ∨
      (16 ≤ (s.reg x).toNat ∧ t = s.takeFault .keyIndexOutOfRange (some w) (.keyIndex (s.reg x))) := by
  unfold checkedKey at h
  by_cases hk : (s.reg x).toNat < 16
  · rw [State.keyLevel_some hk] at h; cases h; exact .inl ⟨hk, rfl⟩
  · rw [State.keyLevel_none (by omega)] at h; cases h; exact .inr ⟨by omega, rfl⟩

end Sys2Proof.Machine
end

