-- ==== Sys2Proof/Laws/Commands.lean ====
section
/-! SUPPORT. What the host commands' helpers do (50_host_interface.md R213, R214). -/

namespace Sys2Proof.Machine

/-- A timer counts down to zero and no further (R213). -/
theorem countDown_toNat (b : Byte) : (countDown b).toNat = b.toNat - 1 := by
  unfold countDown
  split
  · next h => subst h; rfl
  · next h =>
    have : b.toNat ≠ 0 := fun e => h (BitVec.eq_of_toNat_eq e)
    have := b.isLt
    rw [BitVec.toNat_sub]; simp; omega

/-- The level of key `k` after `update_keypad` (R214). -/
theorem keyLevels_getElem (pressed : List Nat) (k : KeyIx) : (keyLevels pressed)[k.val] = pressed.contains k.val := by
  fin_cases k <;> rfl

/-- A block is Halted exactly when its `Run` holds a fault record (R31). -/
theorem State.isHalted_iff (s : State) : s.isHalted = true ↔ ∃ f, s.run = .halted f := by
  unfold State.isHalted
  cases s.run <;> simp

/-- Once the block is Halted, `step()` gives the host no value (R219). -/
theorem stepReply_halted {s : State} (h : s.isHalted = true) : stepReply s = .noValue := if_pos h

/-- Before that, `step()` gives the host the step's output (R217). -/
theorem stepReply_of_not_halted {s : State} (h : s.isHalted = false) : stepReply s = stepOutput s := by simp [stepReply, h]

end Sys2Proof.Machine
end

