-- ==== Sys2Proof/Laws/Decode.lean ====
section
/-! SUPPORT. The fields of a word and the word of a format as numbers (30_encoding.md R72), so that what decoding and encoding
do to each other is arithmetic. -/

namespace Sys2Proof

/-! ### The fields of a word (R11) -/

theorem fieldOp_eq (w : Word) : fieldOp w = w.toNat / 4096 := by
  have := w.isLt
  simp only [fieldOp, BitVec.extractLsb'_toNat, Nat.shiftRight_eq_div_pow]; omega

theorem fieldNnn_toNat (w : Word) : (fieldNnn w).toNat = w.toNat % 4096 := by
  simp [fieldNnn, BitVec.extractLsb'_toNat]

theorem fieldKk_toNat (w : Word) : (fieldKk w).toNat = w.toNat % 256 := by
  simp [fieldKk, BitVec.extractLsb'_toNat]

theorem fieldX_val (w : Word) : (fieldX w).val = w.toNat / 256 % 16 := by
  have h : (fieldX w).val = (w.extractLsb' 8 4).toNat := rfl
  rw [h, BitVec.extractLsb'_toNat, Nat.shiftRight_eq_div_pow]

theorem fieldY_val (w : Word) : (fieldY w).val = w.toNat / 16 % 16 := by
  have h : (fieldY w).val = (w.extractLsb' 4 4).toNat := rfl
  rw [h, BitVec.extractLsb'_toNat, Nat.shiftRight_eq_div_pow]

theorem fieldN_val (w : Word) : (fieldN w).val = w.toNat % 16 := by
  have h : (fieldN w).val = (w.extractLsb' 0 4).toNat := rfl
  rw [h, BitVec.extractLsb'_toNat, Nat.shiftRight_eq_div_pow]; simp

/-! ### The word of a format (R72) -/

theorem append_toNat {m n : Nat} (a : BitVec m) (b : BitVec n) : (a ++ b).toNat = a.toNat * 2 ^ n + b.toNat := by
  rw [BitVec.toNat_append, ← Nat.shiftLeft_add_eq_or_of_lt b.isLt, Nat.shiftLeft_eq]

@[simp] theorem nibble_toNat (x : Fin 16) : (nibble x).toNat = x.val := rfl

theorem encodeA_toNat (op : BitVec 4) (nnn : Addr12) : (encodeA op nnn).toNat = op.toNat * 4096 + nnn.toNat :=
  append_toNat op nnn

theorem encodeXK_toNat (op : BitVec 4) (x : RegIx) (kk : Byte) :
    (encodeXK op x kk).toNat = op.toNat * 4096 + x.val * 256 + kk.toNat := by
  have h : (encodeXK op x kk).toNat = (op ++ nibble x).toNat * 2 ^ 8 + kk.toNat := append_toNat _ _
  rw [h, append_toNat, nibble_toNat]; omega

theorem encodeX_toNat (op : BitVec 4) (x : RegIx) (sub : Byte) :
    (encodeX op x sub).toNat = op.toNat * 4096 + x.val * 256 + sub.toNat :=
  encodeXK_toNat op x sub

theorem encodeXY_toNat (op : BitVec 4) (x y : RegIx) (sub : BitVec 4) :
    (encodeXY op x y sub).toNat = op.toNat * 4096 + x.val * 256 + y.val * 16 + sub.toNat := by
  have h : (encodeXY op x y sub).toNat = (op ++ nibble x ++ nibble y).toNat * 2 ^ 4 + sub.toNat := append_toNat _ _
  rw [h, append_toNat, append_toNat, nibble_toNat, nibble_toNat]; omega

/-! ### The bytes of a word (R71) -/

theorem wordOfBytes_toNat (hi lo : Byte) : (wordOfBytes hi lo).toNat = hi.toNat * 256 + lo.toNat := append_toNat hi lo

theorem highByte_toNat (w : Word) : (highByte w).toNat = w.toNat / 256 := by
  have := w.isLt
  simp only [highByte, BitVec.extractLsb'_toNat, Nat.shiftRight_eq_div_pow]; omega

theorem lowByte_toNat (w : Word) : (lowByte w).toNat = w.toNat % 256 := fieldKk_toNat w

/-- The two bytes of a word make it up again (R71). -/
@[simp] theorem wordOfBytes_bytes (w : Word) : wordOfBytes (highByte w) (lowByte w) = w := by
  apply BitVec.eq_of_toNat_eq
  rw [wordOfBytes_toNat, highByte_toNat, lowByte_toNat]; omega

/-! ### The masks of the opcode table as arithmetic (R75) -/

theorem and_F000_toNat (w : Word) : (w &&& 0xF000#16).toNat = w.toNat / 4096 * 4096 := by
  have h : w &&& 0xF000#16 = (w >>> 12) <<< 12 := by
    apply BitVec.eq_of_getLsbD_eq
    intro i hi
    interval_cases i <;> simp
  have := w.isLt
  rw [h]
  simp only [BitVec.toNat_shiftLeft, BitVec.toNat_ushiftRight, Nat.shiftRight_eq_div_pow, Nat.shiftLeft_eq]
  omega

/-- A mask that keeps the top nibble and the low `k` bits. -/
theorem and_top_low_toNat (w mask : Word) (k : Nat) (hk : k ≤ 12)
    (hor : w &&& mask = (w >>> 12) <<< 12 ||| (w <<< (16 - k)) >>> (16 - k))
    (hand : (w >>> 12) <<< 12 &&& (w <<< (16 - k)) >>> (16 - k) = 0) :
    (w &&& mask).toNat = w.toNat / 4096 * 4096 + w.toNat % 2 ^ k := by
  have hw := w.isLt
  rw [hor, ← BitVec.add_eq_or_of_and_eq_zero _ _ hand]
  simp only [BitVec.toNat_add, BitVec.toNat_shiftLeft, BitVec.toNat_ushiftRight, Nat.shiftRight_eq_div_pow,
    Nat.shiftLeft_eq]
  interval_cases k <;> omega

theorem and_F00F_toNat (w : Word) : (w &&& 0xF00F#16).toNat = w.toNat / 4096 * 4096 + w.toNat % 16 := by
  refine and_top_low_toNat w 0xF00F 4 (by omega) ?_ ?_ <;>
    (apply BitVec.eq_of_getLsbD_eq; intro i hi; interval_cases i <;> simp)

theorem and_F0FF_toNat (w : Word) : (w &&& 0xF0FF#16).toNat = w.toNat / 4096 * 4096 + w.toNat % 256 := by
  refine and_top_low_toNat w 0xF0FF 8 (by omega) ?_ ?_ <;>
    (apply BitVec.eq_of_getLsbD_eq; intro i hi; interval_cases i <;> simp)

/-- When a row applies to a word, as an equation of numbers. -/
theorem rowApplies_iff (w p m : Word) : rowApplies w (p, m) = true ↔ (w &&& m).toNat = p.toNat := by
  rw [BitVec.toNat_inj]; simp [rowApplies]

/-! ### Each format's words match a row of the format's mask (R72, R75) -/

theorem rowApplies_encodeA (op : BitVec 4) (nnn : Addr12) (p : Word) (hp : p.toNat = op.toNat * 4096) :
    rowApplies (encodeA op nnn) (p, 0xF000#16) = true := by
  have := nnn.isLt
  rw [rowApplies_iff, and_F000_toNat, encodeA_toNat]; omega

theorem rowApplies_encodeXK (op : BitVec 4) (x : RegIx) (kk : Byte) (p : Word) (hp : p.toNat = op.toNat * 4096) :
    rowApplies (encodeXK op x kk) (p, 0xF000#16) = true := by
  have := kk.isLt
  rw [rowApplies_iff, and_F000_toNat, encodeXK_toNat]; omega

theorem rowApplies_encodeXYN (op : BitVec 4) (x y : RegIx) (n : BitVec 4) (p : Word)
    (hp : p.toNat = op.toNat * 4096) : rowApplies (encodeXY op x y n) (p, 0xF000#16) = true := by
  have := n.isLt
  rw [rowApplies_iff, and_F000_toNat, encodeXY_toNat]; omega

theorem rowApplies_encodeXY (op : BitVec 4) (x y : RegIx) (sub : BitVec 4) (p : Word)
    (hp : p.toNat = op.toNat * 4096 + sub.toNat) : rowApplies (encodeXY op x y sub) (p, 0xF00F#16) = true := by
  have := sub.isLt
  rw [rowApplies_iff, and_F00F_toNat, encodeXY_toNat]; omega

theorem rowApplies_encodeX (op : BitVec 4) (x : RegIx) (sub : Byte) (p : Word)
    (hp : p.toNat = op.toNat * 4096 + sub.toNat) : rowApplies (encodeX op x sub) (p, 0xF0FF#16) = true := by
  have := sub.isLt
  rw [rowApplies_iff, and_F0FF_toNat, encodeX_toNat]; omega

end Sys2Proof
end

