-- ==== Sys2Proof/Laws/Framebuffer.lean ====
section
/-! SUPPORT. Reading and writing a cell of the framebuffer, and what one pixel and one row of `Draw` do. -/

namespace Sys2Proof.Machine

/-- A cell reads the last value written to it, and a write leaves every other cell alone (R34). -/
theorem Grid.get_set (g : Grid) (r r' : Fin 32) (c c' : Fin 64) (b : Bool) :
    (g.set r c b).get r' c' = if r' = r ∧ c' = c then b else g.get r' c' := by
  simp only [Grid.get, Grid.set, Vector.getElem_set, Fin.ext_iff]
  by_cases hr : r.val = r'.val
  · by_cases hc : c.val = c'.val
    · simp [hr, hc]
    · simp [hr, hc, eq_comm]
  · simp [hr, eq_comm]

/-- Two grids with the same cells are equal. -/
theorem Grid.ext_cells {g h : Grid} (e : ∀ r c, g.get r c = h.get r c) : g = h := by
  apply Vector.ext; intro r hr
  apply Vector.ext; intro c hc
  exact e ⟨r, hr⟩ ⟨c, hc⟩

/-- After `Clear` every cell is false (R104). -/
@[simp] theorem Grid.get_clear (r : Fin 32) (c : Fin 64) : Grid.clear.get r c = false := by
  simp [Grid.get, Grid.clear]

/-- The cells after one pixel (R101). -/
theorem drawPixel_get (r r' : Fin 32) (c c' : Fin 64) (p : Bool) (d : Grid × Bool) :
    (drawPixel r c p d).1.get r' c' = (d.1.get r' c' ^^ (decide (r' = r ∧ c' = c) && p)) := by
  rw [drawPixel, Grid.get_set]
  split
  · next h => obtain ⟨rfl, rfl⟩ := h; simp
  · next h => simp [h]

/-- The collision after one pixel (R101). -/
@[simp] theorem drawPixel_hit (r : Fin 32) (c : Fin 64) (p : Bool) (d : Grid × Bool) :
    (drawPixel r c p d).2 = (d.2 || (p && d.1.get r c)) := rfl

/-- The distance from column `x0` to column `c`, walking right and wrapping (R101). -/
def colOffset (x0 : Nat) (c : Fin 64) : Nat := (c.val + 64 - x0 % 64) % 64

/-- Two columns of one sprite row are the same cell only at the same offset (R8, R101). -/
theorem wrapCol_eq_iff {x0 bit : Nat} (h : bit < 8) (c : Fin 64) : c = wrapCol (x0 + bit) ↔ colOffset x0 c = bit := by
  have := c.isLt
  simp only [Fin.ext_iff, wrapCol, Fin.ofNat, colOffset]
  omega

/-- The pixels at the offsets `l` of one row, from left to right. -/
theorem foldPixels_get (x0 : Nat) (r r' : Fin 32) (c : Fin 64) (b : Byte) (l : List Nat) (hl : l.Nodup)
    (h8 : ∀ k ∈ l, k < 8) (d : Grid × Bool) :
    (l.foldl (fun d bit => drawPixel r (wrapCol (x0 + bit)) (spriteBit b bit) d) d).1.get r' c =
      (d.1.get r' c ^^ (decide (r' = r ∧ colOffset x0 c ∈ l) && spriteBit b (colOffset x0 c))) := by
  induction l generalizing d with
  | nil => simp
  | cons k l ih =>
    obtain ⟨hk, hl'⟩ := List.nodup_cons.1 hl
    rw [List.foldl_cons, ih hl' (fun j hj => h8 j (by simp [hj])), drawPixel_get]
    simp only [wrapCol_eq_iff (h8 k (by simp)) c, List.mem_cons]
    by_cases hr : r' = r <;> by_cases hc : colOffset x0 c = k
    · subst hc; simp [hr, hk]
    · simp [hr, hc]
    · simp [hr]
    · simp [hr]

/-- The collision after the pixels at the offsets `l` of one row. -/
theorem foldPixels_hit (x0 : Nat) (r : Fin 32) (b : Byte) (l : List Nat) (hl : l.Nodup)
    (h8 : ∀ k ∈ l, k < 8) (d : Grid × Bool) :
    (l.foldl (fun d bit => drawPixel r (wrapCol (x0 + bit)) (spriteBit b bit) d) d).2 = true ↔
      d.2 = true ∨ ∃ k ∈ l, spriteBit b k = true ∧ d.1.get r (wrapCol (x0 + k)) = true := by
  induction l generalizing d with
  | nil => simp
  | cons k l ih =>
    obtain ⟨hk, hl'⟩ := List.nodup_cons.1 hl
    have same : ∀ j ∈ l, (drawPixel r (wrapCol (x0 + k)) (spriteBit b k) d).1.get r (wrapCol (x0 + j)) =
        d.1.get r (wrapCol (x0 + j)) := by
      intro j hj
      have hkj : colOffset x0 (wrapCol (x0 + j)) ≠ k := fun e =>
        hk (((wrapCol_eq_iff (h8 j (by simp [hj])) _).1 rfl).symm.trans e ▸ hj)
      simp [drawPixel_get, wrapCol_eq_iff (h8 k (by simp)), hkj]
    have hex : (∃ j ∈ l, spriteBit b j = true ∧
        (drawPixel r (wrapCol (x0 + k)) (spriteBit b k) d).1.get r (wrapCol (x0 + j)) = true) ↔
        ∃ j ∈ l, spriteBit b j = true ∧ d.1.get r (wrapCol (x0 + j)) = true :=
      exists_congr fun j => and_congr_right fun hj => by rw [same j hj]
    rw [List.foldl_cons, ih hl' (fun j hj => h8 j (by simp [hj])), hex]
    simp only [drawPixel_hit, Bool.or_eq_true, Bool.and_eq_true, List.mem_cons, exists_eq_or_imp, or_assoc]

/-- The cells after one row: row `r` is changed by the pixel at each column's offset, other rows are not (R101). -/
theorem drawRow_get (x0 : Nat) (r r' : Fin 32) (c : Fin 64) (b : Byte) (d : Grid × Bool) :
    (drawRow x0 r b d).1.get r' c =
      (d.1.get r' c ^^ (decide (r' = r ∧ colOffset x0 c < 8) && spriteBit b (colOffset x0 c))) := by
  have h : colOffset x0 c ∈ [0, 1, 2, 3, 4, 5, 6, 7] ↔ colOffset x0 c < 8 := by simp; omega
  rw [drawRow, foldPixels_get x0 r r' c b _ (by decide) (by decide)]
  simp only [h]

/-- The collision after one row: a set pixel met a set cell of the row (R101, R102). -/
theorem drawRow_hit (x0 : Nat) (r : Fin 32) (b : Byte) (d : Grid × Bool) :
    (drawRow x0 r b d).2 = true ↔
      d.2 = true ∨ ∃ c, colOffset x0 c < 8 ∧ spriteBit b (colOffset x0 c) = true ∧ d.1.get r c = true := by
  rw [drawRow, foldPixels_hit x0 r b _ (by decide) (by decide)]
  refine or_congr_right ⟨?_, ?_⟩
  · rintro ⟨k, hk, hp, hg⟩
    have hk8 : k < 8 := by simp at hk; omega
    refine ⟨wrapCol (x0 + k), ?_⟩
    rw [(wrapCol_eq_iff hk8 _).1 rfl]
    exact ⟨hk8, hp, hg⟩
  · rintro ⟨c, hk8, hp, hg⟩
    refine ⟨colOffset x0 c, by simp; omega, hp, ?_⟩
    rwa [← (wrapCol_eq_iff hk8 c).2 rfl]

end Sys2Proof.Machine
end

