-- ==== Sys2Proof/Laws/PerInstr.lean ====
section
/-! SUPPORT. The family TableRow: the word of every instruction matches its own row of the opcode table (30_encoding.md R75). -/

namespace Sys2Proof.Laws.TableRow

/-- The word of `i` matches `i`'s row: `w AND mask = match`. -/
def Statement (i : Instr) : Prop := rowApplies (encode i) (tableRows.getD i.row (0, 0)) = true

theorem cls : Statement .cls := rfl
theorem ret : Statement .ret := rfl
theorem sys (nnn : Addr12) : Statement (.sys nnn) := rowApplies_encodeA _ nnn _ rfl
theorem jp (nnn : Addr12) : Statement (.jp nnn) := rowApplies_encodeA _ nnn _ rfl
theorem call (nnn : Addr12) : Statement (.call nnn) := rowApplies_encodeA _ nnn _ rfl
theorem seImm (x : RegIx) (kk : Byte) : Statement (.seImm x kk) := rowApplies_encodeXK _ x kk _ rfl
theorem sneImm (x : RegIx) (kk : Byte) : Statement (.sneImm x kk) := rowApplies_encodeXK _ x kk _ rfl
theorem seReg (x y : RegIx) : Statement (.seReg x y) := rowApplies_encodeXY _ x y _ _ rfl
theorem ldImm (x : RegIx) (kk : Byte) : Statement (.ldImm x kk) := rowApplies_encodeXK _ x kk _ rfl
theorem addImm (x : RegIx) (kk : Byte) : Statement (.addImm x kk) := rowApplies_encodeXK _ x kk _ rfl
theorem ldReg (x y : RegIx) : Statement (.ldReg x y) := rowApplies_encodeXY _ x y _ _ rfl
theorem orReg (x y : RegIx) : Statement (.orReg x y) := rowApplies_encodeXY _ x y _ _ rfl
theorem andReg (x y : RegIx) : Statement (.andReg x y) := rowApplies_encodeXY _ x y _ _ rfl
theorem xorReg (x y : RegIx) : Statement (.xorReg x y) := rowApplies_encodeXY _ x y _ _ rfl
theorem addReg (x y : RegIx) : Statement (.addReg x y) := rowApplies_encodeXY _ x y _ _ rfl
theorem subReg (x y : RegIx) : Statement (.subReg x y) := rowApplies_encodeXY _ x y _ _ rfl
theorem shr (x y : RegIx) : Statement (.shr x y) := rowApplies_encodeXY _ x y _ _ rfl
theorem subn (x y : RegIx) : Statement (.subn x y) := rowApplies_encodeXY _ x y _ _ rfl
theorem shl (x y : RegIx) : Statement (.shl x y) := rowApplies_encodeXY _ x y _ _ rfl
theorem sneReg (x y : RegIx) : Statement (.sneReg x y) := rowApplies_encodeXY _ x y _ _ rfl
theorem ldI (nnn : Addr12) : Statement (.ldI nnn) := rowApplies_encodeA _ nnn _ rfl
theorem jpV0 (nnn : Addr12) : Statement (.jpV0 nnn) := rowApplies_encodeA _ nnn _ rfl
theorem rnd (x : RegIx) (kk : Byte) : Statement (.rnd x kk) := rowApplies_encodeXK _ x kk _ rfl
theorem drw (x y : RegIx) (n : SpriteLen) : Statement (.drw x y n) := rowApplies_encodeXYN _ x y (nibble n) _ rfl
theorem skp (x : RegIx) : Statement (.skp x) := rowApplies_encodeX _ x _ _ rfl
theorem sknp (x : RegIx) : Statement (.sknp x) := rowApplies_encodeX _ x _ _ rfl
theorem ldVxDt (x : RegIx) : Statement (.ldVxDt x) := rowApplies_encodeX _ x _ _ rfl
theorem ldVxK (x : RegIx) : Statement (.ldVxK x) := rowApplies_encodeX _ x _ _ rfl
theorem ldDtVx (x : RegIx) : Statement (.ldDtVx x) := rowApplies_encodeX _ x _ _ rfl
theorem ldStVx (x : RegIx) : Statement (.ldStVx x) := rowApplies_encodeX _ x _ _ rfl
theorem addI (x : RegIx) : Statement (.addI x) := rowApplies_encodeX _ x _ _ rfl
theorem ldF (x : RegIx) : Statement (.ldF x) := rowApplies_encodeX _ x _ _ rfl
theorem ldB (x : RegIx) : Statement (.ldB x) := rowApplies_encodeX _ x _ _ rfl
theorem storeRegs (x : RegIx) : Statement (.storeRegs x) := rowApplies_encodeX _ x _ _ rfl
theorem loadRegs (x : RegIx) : Statement (.loadRegs x) := rowApplies_encodeX _ x _ _ rfl

end Sys2Proof.Laws.TableRow
end

