-- ==== Sys2Proof/Laws/Step.lean ====
section
/-! SUPPORT. What a step can do, said once (35_execution_cycle.md R90 to R92, R96), and what placing a word does. -/

namespace Sys2Proof.Machine

/-- The fetch inside memory (R92). -/
theorem State.fetch_some {s : State} (h : s.pc.toNat + 2 ≤ 4096) :
    s.fetch = some (wordOfBytes (s.mem.read s.pc.toNat) (s.mem.read (s.pc.toNat + 1))) := by
  rw [State.fetch, if_pos ((inRange_iff _ _).2 h)]

/-- The fetch outside memory (R92). -/
theorem State.fetch_none {s : State} (h : 4096 < s.pc.toNat + 2) : s.fetch = none := by
  rw [State.fetch, if_neg (fun e => by have := (inRange_iff _ _).1 e; omega)]

/-- Everything a step can do when it answers a next state. -/
theorem step_cases {s t : State} (h : step s = .next t) :
    (∃ f, s.run = .halted f ∧ t = s) ∨
    (∃ x, s.run = .awaitingKey x ∧ t = s.waitStep x) ∨
    (s.run = .running ∧ s.fetch = none ∧ t = s.takeFault .fetchOutOfBounds none (.access s.pc 2 .fetch)) ∨
    (∃ w e, s.run = .running ∧ s.fetch = some w ∧ decode w = .error e ∧
      t = s.takeFault .illegalOpcode (some w) .empty) ∨
    (∃ w i, s.run = .running ∧ s.fetch = some w ∧ decode w = .ok i ∧ exec i s = .next t) := by
  unfold step stepOnce at h
  split at h
  · next hr =>
    unfold executeStep at h
    split at h
    · next hf => cases h; exact .inr (.inr (.inl ⟨hr, hf, rfl⟩))
    · next w hf =>
      split at h
      · next i hd => exact .inr (.inr (.inr (.inr ⟨w, i, hr, hf, hd, h⟩)))
      · next e hd => cases h; exact .inr (.inr (.inr (.inl ⟨w, e, hr, hf, hd, rfl⟩)))
  · next x hr => cases h; exact .inr (.inl ⟨x, hr, rfl⟩)
  · next f hr => cases h; exact .inl ⟨f, hr, rfl⟩

/-- Everything a wait step can do (R91). -/
theorem State.waitStep_cases (s : State) (x : RegIx) :
    (s.delivered = none ∧ s.waitStep x = s) ∨
    (∃ k, s.delivered = some k ∧
      s.waitStep x = ((s.setReg x (BitVec.ofNat 8 k.val)).setDelivered none).setRun .running) := by
  unfold State.waitStep
  cases h : s.delivered with
  | none => exact .inl ⟨rfl, rfl⟩
  | some k => exact .inr ⟨k, rfl, rfl⟩

/-- A state made ready to fetch is Running and its fetch lies in memory. -/
theorem State.readyToFetch_spec (s : State) :
    s.readyToFetch.run = .running ∧ s.readyToFetch.pc.toNat + 2 ≤ 4096 ∧ s.readyToFetch.mem = s.mem := by
  unfold State.readyToFetch
  cases hr : s.run <;> (simp only []; split <;> simp_all [inRange_iff]; decide)

end Sys2Proof.Machine
end

