-- ==== Sys2Proof/Tests/Slice0.lean ====
section
/-! SUPPORT. The model's own tests. Expected results are the vectors of 95_test_vectors.md, named in each comment, or words written
out from 30_encoding.md; a theorem `witness_<Name>` shows that the hypotheses of the obligation `<Name>` can hold together,
one case per clause. -/

namespace Sys2Proof.Tests

open Sys2Proof Sys2Proof.Machine

/-! ### Helpers -/

/-- The reset state with the word `w` at `PC`. -/
def at_ (w : Nat) : State := State.reset.withFetchWord 16 w

/-- The registers of `l` set, as (index, value). -/
def withRegs (l : List (RegIx × Byte)) (s : State) : State := l.foldl (fun t p => t.setReg p.1 p.2) s

/-- Bytes stored from `a` on. -/
def withBytes (a : Nat) (bs : List Byte) (s : State) : State := s.setMem (s.mem.writeBytes a bs)

/-- The pixels of `l` set, as (row, column). -/
def withPixels (l : List (Fin 32 × Fin 64)) (s : State) : State := s.setFb (l.foldl (fun g p => g.set p.1 p.2 true) s.fb)

/-- `n` entries on a stack of slots that hold 0x206. -/
def withStack (n : Fin 17) (s : State) : State := { s with sp := n, stack := Vector.replicate 16 0x206 }

/-- A fault record. -/
def aFault : FaultRecord := { cause := .illegalOpcode, pc := 0x200, opcode := some 0x5001, info := .empty }

/-- A wait for V15, with a delivered key or none. -/
def waiting (d : Option KeyIx) : State := { State.reset with run := .awaitingKey 15, delivered := d, pc := 0x202 }

/-- A session in a wait. -/
def waitSession : Session := { block := waiting none, loadOpen := false }

/-- A session whose block is Halted. -/
def haltedSession : Session := { block := { State.reset with run := .halted aFault }, loadOpen := false }

/-- A next state came out, and it has the property `p`. -/
def after {α : Type} (o : Host.Outcome α Fault Refusal) (p : α → Bool) : Bool :=
  match o with
  | .next t => p t
  | .fault _ | .refused _ => false

/-- The command is refused with `r`. -/
def refusedWith {α : Type} (o : Host.Outcome α Fault Refusal) (r : Refusal) : Bool :=
  match o with
  | .refused q => decide (q = r)
  | .next _ | .fault _ => false

/-- The outcome is `s` Halted with this record, and nothing else changed. -/
def haltsAs (o : Host.Outcome State Fault Refusal) (s : State) (c : FaultCause) (w : Option Word) (i : FaultInfo) : Bool :=
  after o (fun t => decide (t = { s with run := .halted { cause := c, pc := s.pc, opcode := w, info := i } }))

/-- The word decodes to the instruction, and the instruction encodes to the word. -/
def codes (w : Word) (i : Instr) : Prop := decode w = .ok i ∧ encode i = w ∧ i.wellFormed = true

/-! ### WellFormed -/

theorem test_wellFormed_refuses_sys_0E0 : (Instr.sys 0x0E0).wellFormed = false := by decide

theorem test_wellFormed_refuses_sys_0EE : (Instr.sys 0x0EE).wellFormed = false := by decide

theorem test_wellFormed_accepts_sys_0E1 : (Instr.sys 0x0E1).wellFormed = true := by decide

/-! ### Decoding: one word per constructor, from the patterns of R75 -/

theorem test_code_cls : codes 0x00E0 .cls := ⟨by decide, by decide, by decide⟩
theorem test_code_ret : codes 0x00EE .ret := ⟨by decide, by decide, by decide⟩
theorem test_code_sys : codes 0x0123 (.sys 0x123) := ⟨by decide, by decide, by decide⟩
theorem test_code_jp : codes 0x1234 (.jp 0x234) := ⟨by decide, by decide, by decide⟩
theorem test_code_call : codes 0x2345 (.call 0x345) := ⟨by decide, by decide, by decide⟩
theorem test_code_seImm : codes 0x3A42 (.seImm 0xA 0x42) := ⟨by decide, by decide, by decide⟩
theorem test_code_sneImm : codes 0x4B91 (.sneImm 0xB 0x91) := ⟨by decide, by decide, by decide⟩
theorem test_code_seReg : codes 0x5120 (.seReg 1 2) := ⟨by decide, by decide, by decide⟩
theorem test_code_ldImm : codes 0x600A (.ldImm 0 0x0A) := ⟨by decide, by decide, by decide⟩
theorem test_code_addImm : codes 0x7105 (.addImm 1 0x05) := ⟨by decide, by decide, by decide⟩
theorem test_code_ldReg : codes 0x8120 (.ldReg 1 2) := ⟨by decide, by decide, by decide⟩
theorem test_code_orReg : codes 0x8341 (.orReg 3 4) := ⟨by decide, by decide, by decide⟩
theorem test_code_andReg : codes 0x8562 (.andReg 5 6) := ⟨by decide, by decide, by decide⟩
theorem test_code_xorReg : codes 0x8783 (.xorReg 7 8) := ⟨by decide, by decide, by decide⟩
theorem test_code_addReg : codes 0x89A4 (.addReg 9 0xA) := ⟨by decide, by decide, by decide⟩
theorem test_code_subReg : codes 0x8BC5 (.subReg 0xB 0xC) := ⟨by decide, by decide, by decide⟩
theorem test_code_shr : codes 0x8DE6 (.shr 0xD 0xE) := ⟨by decide, by decide, by decide⟩
theorem test_code_subn : codes 0x8127 (.subn 1 2) := ⟨by decide, by decide, by decide⟩
theorem test_code_shl : codes 0x8F0E (.shl 0xF 0) := ⟨by decide, by decide, by decide⟩
theorem test_code_sneReg : codes 0x9120 (.sneReg 1 2) := ⟨by decide, by decide, by decide⟩
theorem test_code_ldI : codes 0xA312 (.ldI 0x312) := ⟨by decide, by decide, by decide⟩
theorem test_code_jpV0 : codes 0xB345 (.jpV0 0x345) := ⟨by decide, by decide, by decide⟩
theorem test_code_rnd : codes 0xC30F (.rnd 3 0x0F) := ⟨by decide, by decide, by decide⟩
theorem test_code_drw : codes 0xD125 (.drw 1 2 5) := ⟨by decide, by decide, by decide⟩
theorem test_code_skp : codes 0xE19E (.skp 1) := ⟨by decide, by decide, by decide⟩
theorem test_code_sknp : codes 0xE2A1 (.sknp 2) := ⟨by decide, by decide, by decide⟩
theorem test_code_ldVxDt : codes 0xF307 (.ldVxDt 3) := ⟨by decide, by decide, by decide⟩
theorem test_code_ldVxK : codes 0xF40A (.ldVxK 4) := ⟨by decide, by decide, by decide⟩
theorem test_code_ldDtVx : codes 0xF515 (.ldDtVx 5) := ⟨by decide, by decide, by decide⟩
theorem test_code_ldStVx : codes 0xF618 (.ldStVx 6) := ⟨by decide, by decide, by decide⟩
theorem test_code_addI : codes 0xF71E (.addI 7) := ⟨by decide, by decide, by decide⟩
theorem test_code_ldF : codes 0xFA29 (.ldF 0xA) := ⟨by decide, by decide, by decide⟩
theorem test_code_ldB : codes 0xF833 (.ldB 8) := ⟨by decide, by decide, by decide⟩
theorem test_code_storeRegs : codes 0xF255 (.storeRegs 2) := ⟨by decide, by decide, by decide⟩
theorem test_code_loadRegs : codes 0xF965 (.loadRegs 9) := ⟨by decide, by decide, by decide⟩

/-- L2-X6 to L2-X9 -/
theorem test_illegal_words :
    [0x8128, 0x812D, 0x812F, 0x5121, 0x912F, 0xE19F, 0xE1A0, 0xE100, 0xF030, 0xF075, 0xF000, 0xF0FF].all
      (fun w => decide (decode w = .error (.illegalOpcode w))) = true := by decide

/-- R70: an instruction is two bytes -/
theorem test_truncated_bytes : decodeBytes [0x60] = .error .truncated ∧ decodeBytes [] = .error .truncated := by decide

/-- R71: the byte at the lower address is the high one -/
theorem test_decodeBytes_order : decodeBytes [0x60, 0x0A, 0x70] = .ok (.ldImm 0 0x0A, [0x70]) := by decide

theorem test_decodeTableWord : decodeTableWord 16 0xD125 = some (.drw 1 2 5) ∧ decodeTableWord 16 0x5001 = none := by decide

/-! ### One step per vector -/

/-- L2-X1: the last two bytes of memory can be fetched -/
theorem test_fetch_last_word : after (step { State.reset with pc := 0xFFE }) (fun t => decide (t.pc = 0x1000)) = true := by
  decide

/-- L2-X2 -/
theorem test_fetch_fault :
    haltsAs (step { State.reset with pc := 0xFFF }) { State.reset with pc := 0xFFF } .fetchOutOfBounds none
      (.access 0xFFF 2 .fetch) = true := by decide

/-- L2-X5 -/
theorem test_odd_fetch :
    after (step (withBytes 0x201 [0x60, 0x42] { State.reset with pc := 0x201 }))
      (fun t => decide (t.reg 0 = 0x42 ∧ t.pc = 0x203)) = true := by decide

/-- L2-X7 -/
theorem test_illegal_step : haltsAs (step (at_ 0x5121)) (at_ 0x5121) .illegalOpcode (some 0x5121) .empty = true := by decide

/-- L2-X11 -/
theorem test_redraw :
    stepOutput (at_ 0xD011) = .needsRedraw true ∧ stepOutput (at_ 0x00E0) = .needsRedraw false ∧
    stepOutput (at_ 0xF30A) = .needsRedraw false := by decide

/-- L2-DS1 -/
theorem test_drw_wraps_columns :
    after (step (withBytes 0x300 [0xFF] (withRegs [(0, 61)] { at_ 0xD011 with i := 0x300 })))
      (fun t => decide (t.fb = (withPixels [(0, 61), (0, 62), (0, 63), (0, 0), (0, 1), (0, 2), (0, 3), (0, 4)] t).fb ∧
        t.fb.get 0 5 = false ∧ t.fb.get 0 60 = false ∧ t.fb.get 1 0 = false ∧ t.reg vf = 0 ∧ t.pc = 0x202)) = true := by
  decide

/-- L2-DS4; L2-DS11: both coordinates are the old VF; L2-DS8: a zero-length sprite faults only above 0x1000 -/
theorem test_drw_corners :
    after (step (withBytes 0x300 [0xC0] (withPixels [(0, 1), (5, 5)] { at_ 0xD011 with i := 0x300 })))
      (fun t => t.fb.get 0 0 && !t.fb.get 0 1 && t.fb.get 5 5 && decide (t.reg vf = 1)) = true ∧
    after (step (withBytes 0x300 [0x80] (withRegs [(15, 10)] { at_ 0xDFF1 with i := 0x300 })))
      (fun t => t.fb.get 10 10 && decide (t.reg vf = 0)) = true ∧
    haltsAs (step { at_ 0xD010 with i := 0x1001 }) { at_ 0xD010 with i := 0x1001 } .dataOutOfBounds (some 0xD010)
      (.access 0x1001 0 .read) = true := by decide

/-- L2-DS13 -/
theorem test_cls :
    after (step (withPixels [(0, 0), (31, 63)] (at_ 0x00E0)))
      (fun t => decide (t.fb = State.reset.fb) && decide (t.pc = 0x202)) = true := by decide

/-- L2-X10 -/
theorem test_sys : after (step (at_ 0x0FFF)) (fun t => decide (t = { at_ 0x0FFF with pc := 0x202 })) = true := by decide

/-- L2-CT1, L2-CT2 -/
theorem test_seImm :
    after (step (withRegs [(1, 5)] (at_ 0x3105))) (fun t => decide (t.pc = 0x204)) = true ∧
    after (step (withRegs [(1, 6)] (at_ 0x3105))) (fun t => decide (t.pc = 0x202)) = true := by decide

/-- L2-CT3, L2-CT4 -/
theorem test_sneImm :
    after (step (withRegs [(1, 5)] (at_ 0x4105))) (fun t => decide (t.pc = 0x202)) = true ∧
    after (step (withRegs [(1, 6)] (at_ 0x4105))) (fun t => decide (t.pc = 0x204)) = true := by decide

/-- L2-CT5, L2-CT6 -/
theorem test_seReg :
    after (step (withRegs [(1, 9), (2, 9)] (at_ 0x5120))) (fun t => decide (t.pc = 0x204)) = true ∧
    after (step (withRegs [(1, 9), (2, 8)] (at_ 0x5120))) (fun t => decide (t.pc = 0x202)) = true := by decide

/-- L2-CT7, L2-CT8 -/
theorem test_sneReg :
    after (step (withRegs [(1, 9), (2, 9)] (at_ 0x9120))) (fun t => decide (t.pc = 0x202)) = true ∧
    after (step (withRegs [(1, 9), (2, 8)] (at_ 0x9120))) (fun t => decide (t.pc = 0x204)) = true := by decide

/-- L2-CT10 -/
theorem test_jp : after (step (at_ 0x1201)) (fun t => decide (t = { at_ 0x1201 with pc := 0x201 })) = true := by decide

/-- L2-CT11 -/
theorem test_call :
    after (step (at_ 0x2300)) (fun t => decide (t.stack[0] = 0x202 ∧ t.sp = 1 ∧ t.pc = 0x300)) = true := by decide

/-- L2-CT15 -/
theorem test_call_overflow :
    haltsAs (step (withStack 16 (at_ 0x2300))) (withStack 16 (at_ 0x2300)) .stackOverflow (some 0x2300) .empty = true := by
  decide

/-- L2-CT16 -/
theorem test_ret :
    after (step (withStack 1 (at_ 0x00EE))) (fun t => decide (t.pc = 0x206 ∧ t.sp = 0 ∧ t.stack[0] = 0x206)) = true := by
  decide

/-- L2-CT12 -/
theorem test_ret_underflow :
    haltsAs (step (at_ 0x00EE)) (at_ 0x00EE) .stackUnderflow (some 0x00EE) .empty = true := by decide

/-- L2-CT13 -/
theorem test_jpV0_not_masked :
    after (step (withRegs [(0, 0xFF)] (at_ 0xBFFF))) (fun t => decide (t.pc = 0x10FE)) = true := by decide

/-- L2-A2 -/
theorem test_ldImm_vf : after (step (at_ 0x6FAA)) (fun t => decide (t.reg vf = 0xAA ∧ t.pc = 0x202)) = true := by decide

/-- L2-A3 -/
theorem test_addImm_no_flag :
    after (step (withRegs [(1, 0xFF)] (at_ 0x7101))) (fun t => decide (t.reg 1 = 0 ∧ t.reg vf = 0)) = true := by decide

/-- L2-A5 -/
theorem test_ldReg : after (step (withRegs [(2, 0x33)] (at_ 0x8120))) (fun t => decide (t.reg 1 = 0x33)) = true := by decide

/-- L2-A6 -/
theorem test_orReg :
    after (step (withRegs [(1, 0xF0), (2, 0x0F), (15, 0x55)] (at_ 0x8121)))
      (fun t => decide (t.reg 1 = 0xFF ∧ t.reg vf = 0x55)) = true := by decide

/-- L2-A7 -/
theorem test_andReg :
    after (step (withRegs [(1, 0xF3), (2, 0x3F)] (at_ 0x8122))) (fun t => decide (t.reg 1 = 0x33)) = true := by decide

/-- L2-A8 -/
theorem test_xorReg :
    after (step (withRegs [(1, 0xFF), (2, 0x0F)] (at_ 0x8123))) (fun t => decide (t.reg 1 = 0xF0)) = true := by decide

/-- L2-A12 -/
theorem test_addReg_carry :
    after (step (withRegs [(1, 0x80), (2, 0x80)] (at_ 0x8124))) (fun t => decide (t.reg 1 = 0 ∧ t.reg vf = 1)) = true := by
  decide

/-- L2-A14, L2-A15 -/
theorem test_addReg_vf_operand :
    after (step (withRegs [(15, 0xF0), (2, 0x20)] (at_ 0x8F24))) (fun t => decide (t.reg vf = 0x10)) = true ∧
    after (step (withRegs [(15, 0xF5), (1, 0x10)] (at_ 0x81F4)))
      (fun t => decide (t.reg vf = 1 ∧ t.reg 1 = 0x05)) = true := by decide

/-- L2-A18, L2-A19 -/
theorem test_subReg :
    after (step (withRegs [(1, 3), (2, 5)] (at_ 0x8125))) (fun t => decide (t.reg 1 = 0xFE ∧ t.reg vf = 0)) = true ∧
    after (step (withRegs [(1, 7), (2, 7)] (at_ 0x8125))) (fun t => decide (t.reg 1 = 0 ∧ t.reg vf = 1)) = true := by decide

/-- L2-A20, L2-A21 -/
theorem test_subReg_vf_operand :
    after (step (withRegs [(15, 0x10), (1, 5)] (at_ 0x8F15))) (fun t => decide (t.reg vf = 0xFC)) = true ∧
    after (step (withRegs [(15, 3), (1, 5)] (at_ 0x81F5))) (fun t => decide (t.reg vf = 1 ∧ t.reg 1 = 4)) = true := by decide

/-- L2-A25: Vy is ignored -/
theorem test_shr :
    after (step (withRegs [(1, 4), (5, 0xFF)] (at_ 0x8156))) (fun t => decide (t.reg 1 = 2 ∧ t.reg vf = 0)) = true := by
  decide

/-- L2-A26 -/
theorem test_shr_vf : after (step (withRegs [(15, 3)] (at_ 0x8F06))) (fun t => decide (t.reg vf = 0)) = true := by decide

/-- L2-A28 -/
theorem test_subn :
    after (step (withRegs [(1, 5), (2, 3)] (at_ 0x8127))) (fun t => decide (t.reg 1 = 0xFE ∧ t.reg vf = 0)) = true := by
  decide

/-- L2-A29, L2-A30 -/
theorem test_subn_vf_operand :
    after (step (withRegs [(15, 2), (1, 0x10)] (at_ 0x8F17))) (fun t => decide (t.reg vf = 0x0F)) = true ∧
    after (step (withRegs [(15, 0x10), (1, 2)] (at_ 0x81F7))) (fun t => decide (t.reg vf = 1 ∧ t.reg 1 = 0xFF)) = true := by
  decide

/-- L2-A32 -/
theorem test_shl :
    after (step (withRegs [(1, 0x81)] (at_ 0x810E))) (fun t => decide (t.reg 1 = 2 ∧ t.reg vf = 1)) = true := by decide

/-- L2-A34 -/
theorem test_shl_vf : after (step (withRegs [(15, 0x80)] (at_ 0x8F0E))) (fun t => decide (t.reg vf = 2)) = true := by decide

/-- L2-A36 with the draw left free -/
theorem test_rnd : after (exec (.rnd 3 0x0F) State.reset)
    (fun t => decide (t.draws = 1 ∧ t.pc = 0x202) && decide (t.reg 2 = 0)) = true := by
  simp [exec, execRnd, after, State.setReg, State.drawn, State.advance, State.setPc, State.reset, State.reg]

/-- L2-A37: a draw is consumed with kk = 0 -/
theorem test_rnd_zero_mask : ∃ t, exec (.rnd 3 0x00) State.reset = .next t ∧ t.reg 3 = 0 ∧ t.draws = 1 :=
  ⟨_, rfl, by simp [State.reg, State.setReg], rfl⟩

/-- L2-M1 -/
theorem test_ldI : after (step (at_ 0xA300)) (fun t => decide (t.i = 0x300)) = true := by decide

/-- L2-M3, L2-M4 -/
theorem test_addI :
    after (step (withRegs [(2, 2)] { at_ 0xF21E with i := 0xFFFF })) (fun t => decide (t.i = 1 ∧ t.reg vf = 0)) = true ∧
    after (step (withRegs [(1, 1)] { at_ 0xF11E with i := 0xFFF })) (fun t => decide (t.i = 0x1000)) = true := by decide

/-- L2-M6 -/
theorem test_ldF : after (step (withRegs [(0, 0xFF)] (at_ 0xF029))) (fun t => decide (t.i = 0x4FB)) = true := by decide

/-- L2-M7 -/
theorem test_ldB :
    after (step (withRegs [(0, 156)] { at_ 0xF033 with i := 0x300 }))
      (fun t => decide (t.mem.readBytes 0x300 4 = [1, 5, 6, 0] ∧ t.i = 0x300)) = true := by decide

/-- L2-M11 -/
theorem test_ldB_fault :
    haltsAs (step { at_ 0xF033 with i := 0xFFE }) { at_ 0xF033 with i := 0xFFE } .dataOutOfBounds (some 0xF033)
      (.access 0xFFE 3 .write) = true := by decide

/-- L2-M12 -/
theorem test_storeRegs :
    after (step (withRegs [(0, 1), (1, 2), (2, 3), (3, 4)] { at_ 0xF255 with i := 0x400 }))
      (fun t => decide (t.mem.readBytes 0x400 4 = [1, 2, 3, 0] ∧ t.i = 0x400)) = true := by decide

/-- L2-M14 -/
theorem test_storeRegs_fault :
    haltsAs (step { at_ 0xFF55 with i := 0xFF1 }) { at_ 0xFF55 with i := 0xFF1 } .dataOutOfBounds (some 0xFF55)
      (.access 0xFF1 16 .write) = true := by decide

/-- L2-M16: with the default font -/
theorem test_loadRegs :
    after (step (at_ 0xFF65))
      (fun t => decide (t.v.toList = [0xF0, 0x90, 0x90, 0x90, 0xF0, 0x20, 0x60, 0x20, 0x20, 0x70, 0xF0, 0x10, 0xF0, 0x80,
        0xF0, 0xF0] ∧ t.i = 0)) = true := by decide

/-- L2-M17 -/
theorem test_loadRegs_fault :
    haltsAs (step { at_ 0xFF65 with i := 0xFF1 }) { at_ 0xFF65 with i := 0xFF1 } .dataOutOfBounds (some 0xFF65)
      (.access 0xFF1 16 .read) = true := by decide

/-- L2-K1, L2-K2 -/
theorem test_skp :
    after (step ((withRegs [(1, 5)] (at_ 0xE19E)).setKey (keyLevels [5]))) (fun t => decide (t.pc = 0x204)) = true ∧
    after (step (withRegs [(1, 5)] (at_ 0xE19E))) (fun t => decide (t.pc = 0x202)) = true := by decide

/-- L2-K5 -/
theorem test_skp_fault :
    haltsAs (step (withRegs [(1, 0x10)] (at_ 0xE19E))) (withRegs [(1, 0x10)] (at_ 0xE19E)) .keyIndexOutOfRange (some 0xE19E)
      (.keyIndex 0x10) = true := by decide

/-- L2-K3, L2-K4 -/
theorem test_sknp :
    after (step (withRegs [(1, 5)] (at_ 0xE1A1))) (fun t => decide (t.pc = 0x204)) = true ∧
    after (step ((withRegs [(1, 5)] (at_ 0xE1A1)).setKey (keyLevels [5]))) (fun t => decide (t.pc = 0x202)) = true := by
  decide

/-- L2-K6 -/
theorem test_sknp_fault :
    haltsAs (step (withRegs [(1, 0xFF)] (at_ 0xE1A1))) (withRegs [(1, 0xFF)] (at_ 0xE1A1)) .keyIndexOutOfRange (some 0xE1A1)
      (.keyIndex 0xFF) = true := by decide

/-- L2-K7 -/
theorem test_ldVxDt : after (step { at_ 0xF307 with dt := 0x3C }) (fun t => decide (t.reg 3 = 0x3C)) = true := by decide

/-- L2-K8 -/
theorem test_ldDtVx :
    after (step (withRegs [(3, 0x3C)] (at_ 0xF315))) (fun t => decide (t.dt = 0x3C ∧ t.st = 0)) = true := by decide

/-- L2-K9 -/
theorem test_ldStVx :
    after (step (withRegs [(3, 5)] (at_ 0xF318))) (fun t => decide (t.st = 5 ∧ t.dt = 0)) = true := by decide

/-- L2-K10 -/
theorem test_ldVxK :
    after (step (at_ 0xF30A)) (fun t => decide (t = { at_ 0xF30A with run := .awaitingKey 3, pc := 0x202 })) = true := by
  decide

/-- L2-K13, its last step: the last delivered key ends the wait -/
theorem test_wait_ends :
    after (Session.runAll ⟨{ State.reset with run := .awaitingKey 5, pc := 0x202 }, false⟩
        [.deliverKeyPress 3, .deliverKeyPress 9, .step])
      (fun c => decide (c.block.reg 5 = 9 ∧ c.block.run = .running ∧ c.block.delivered = none ∧ c.block.pc = 0x202)) =
      true := by decide

/-! ### Construction and host commands -/

/-- R41, R43, R44: construction with the default FONT is the reset state -/
theorem test_construct_default : State.construct fontDefault = State.reset := by decide

/-- R43: the glyph of A (L3-H) lies at 0x032, and 0x050 is not font -/
theorem test_reset_memory :
    State.reset.mem.readBytes 0x32 5 = [0xF0, 0x90, 0xF0, 0x90, 0x90] ∧ State.reset.mem.read 0x50 = 0 := by decide

/-- L2-H2: its record and the block after it -/
theorem test_load_too_large (image : List Byte) (h : image.length = 3585) :
    after ((Session.start fontDefault).apply (.loadProgram image))
      (fun p => decide (p.1.block = { State.reset with run := .halted ⟨.programTooLarge, 0x200, none, .imageLength 3585⟩ })) =
      true := by
  simp [Session.apply, Session.loadProgram, Session.start, test_construct_default, State.isHalted, State.reset, after,
    State.loadProgram, State.halt, State.setRun, loadFault, h]

/-- L1-6, the load -/
theorem test_load :
    after ((Session.start fontDefault).apply (.loadProgram [0x60, 0x0A, 0x70, 0x05]))
      (fun p => decide (p.1.block.mem.readBytes 0x200 5 = [0x60, 0x0A, 0x70, 0x05, 0] ∧ p.1.loadOpen = false)) = true := by
  decide

/-- L2-H3 -/
theorem test_decrement_timers :
    ({ State.reset with dt := 1 }).decrementTimers = State.reset ∧ State.reset.decrementTimers = State.reset := by decide

/-- L2-H4 -/
theorem test_update_keypad :
    (State.reset.updateKeypad [0x1, 0xF]).key.toList = [false, true] ++ List.replicate 13 false ++ [true] ∧
    (State.reset.updateKeypad [0x1, 0xF]).updateKeypad [] = State.reset := by decide

/-- L2-H7, its first command: no value; D26: the step's own output is false -/
theorem test_halted_step :
    after (haltedSession.apply .step) (fun p => decide (p.1 = haltedSession ∧ p.2 = .stepped .noValue)) = true ∧
    stepOutput haltedSession.block = .needsRedraw false := by decide

/-- L2-H6 -/
theorem test_key_refused :
    refusedWith ((Session.start fontDefault).apply (.updateKeypad [0x10])) (.keyIdentifier 0x10) = true ∧
    refusedWith ((Session.start fontDefault).apply (.deliverKeyPress 0x10)) (.keyIdentifier 0x10) = true := by decide

/-! ### Witnesses of the obligations' hypotheses -/

/-- A running state whose `PC` is at the last address that can be fetched. -/
def atTop (w : Nat) : State := ({ State.reset with pc := 0xFFE } : State).withFetchWord 16 w

theorem witness_DecodeUndoesEncode : (Instr.sys 0xFFF).wellFormed = true ∧ (Instr.drw 15 15 15).wellFormed = true := by decide

theorem witness_EncodeUndoesDecode : decode 0x81F6 = .ok (.shr 1 15) ∧ decode 0x0000 = .ok (.sys 0) := by decide

theorem witness_DecodeFollowsOpcodeTable :
    rowApplies 0x00EE tableRows[1] = true ∧ rowApplies 0x00EE tableRows[2] = true ∧ firstRow 0x00EE = some 1 ∧
    firstRow 0xFFFF = none := by decide

theorem witness_IllegalWordsByFamily :
    decode 0x500F = .error (.illegalOpcode 0x500F) ∧ decode 0x800D = .error (.illegalOpcode 0x800D) ∧
    decode 0x9001 = .error (.illegalOpcode 0x9001) ∧ decode 0xEF9D = .error (.illegalOpcode 0xEF9D) ∧
    decode 0xFFFF = .error (.illegalOpcode 0xFFFF) := by decide

theorem witness_DecodeBytesReadsTwoBytes : (Instr.loadRegs 15).wellFormed = true ∧ encodeBytes (.loadRegs 15) = [0xFF, 0x65] := by
  decide

theorem witness_StepRunsDecodedInstruction :
    (atTop 0x6FAA).run = .running ∧ (atTop 0x6FAA).pc.toNat + 2 ≤ 4096 ∧
    (0x6FAA : Word).toNat = 256 * ((atTop 0x6FAA).mem.read (atTop 0x6FAA).pc.toNat).toNat +
      ((atTop 0x6FAA).mem.read ((atTop 0x6FAA).pc.toNat + 1)).toNat ∧
    decode 0x6FAA = .ok (.ldImm 15 0xAA) := by decide

theorem witness_FetchOutsideMemoryFaults :
    ({ State.reset with pc := 0xFFF } : State).run = .running ∧ 4096 < ({ State.reset with pc := 0xFFF } : State).pc.toNat + 2 ∧
    ¬ 4096 < (atTop 0).pc.toNat + 2 := by decide

theorem witness_IllegalWordFaults :
    (at_ 0x5001).run = .running ∧ (at_ 0x5001).fetch = some 0x5001 ∧ firstRow 0x5001 = none := by decide

theorem witness_WaitStepPolls :
    (waiting none).run = .awaitingKey 15 ∧ (waiting none).delivered = none ∧ (waiting (some 15)).run = .awaitingKey 15 ∧
    (waiting (some 15)).delivered = some 15 := by decide

theorem witness_FaultsArePrecise :
    ∃ t f, step (at_ 0x5001) = .next t ∧ t.run = .halted f ∧ f.pc = 0x200 ∧ f.opcode = some 0x5001 :=
  ⟨_, _, rfl, rfl, by decide, by decide⟩

/-- One state for each cause of FaultCausesAreExact, at the boundary of its clause. -/
theorem witness_FaultCausesAreExact :
    (∃ t f, step (at_ 0xF0FF) = .next t ∧ t.run = .halted f ∧ f.cause = .illegalOpcode) ∧
    (∃ t f, step (withStack 16 (at_ 0x2FFF)) = .next t ∧ t.run = .halted f ∧ f.cause = .stackOverflow) ∧
    (∃ t f, step (at_ 0x00EE) = .next t ∧ t.run = .halted f ∧ f.cause = .stackUnderflow) ∧
    (∃ t f, step { State.reset with pc := 0xFFF } = .next t ∧ t.run = .halted f ∧ f.cause = .fetchOutOfBounds) ∧
    (∃ t f, step { at_ 0xD012 with i := 0xFFF } = .next t ∧ t.run = .halted f ∧ f.info = .access 0xFFF 2 .read) ∧
    (∃ t f, step { at_ 0xF033 with i := 0xFFE } = .next t ∧ t.run = .halted f ∧ f.info = .access 0xFFE 3 .write) ∧
    (∃ t f, step { at_ 0xF055 with i := 0x1000 } = .next t ∧ t.run = .halted f ∧ f.info = .access 0x1000 1 .write) ∧
    (∃ t f, step { at_ 0xFF65 with i := 0xFF1 } = .next t ∧ t.run = .halted f ∧ f.info = .access 0xFF1 16 .read) ∧
    (∃ t f, step (withRegs [(15, 16)] (at_ 0xEF9E)) = .next t ∧ t.run = .halted f ∧ f.cause = .keyIndexOutOfRange) :=
  ⟨⟨_, _, rfl, rfl, rfl⟩, ⟨_, _, rfl, rfl, rfl⟩, ⟨_, _, rfl, rfl, rfl⟩, ⟨_, _, rfl, rfl, rfl⟩, ⟨_, _, rfl, rfl, rfl⟩,
    ⟨_, _, rfl, rfl, rfl⟩, ⟨_, _, rfl, rfl, rfl⟩, ⟨_, _, rfl, rfl, rfl⟩, ⟨_, _, rfl, rfl, rfl⟩⟩

theorem witness_RedrawExactlyOnDraw :
    ((at_ 0x6FAA).run = .running ∧ (at_ 0x6FAA).fetch = some 0x6FAA ∧
      ∃ t, step (at_ 0x6FAA) = .next t ∧ t.run = .running) ∧
    (waiting none).run = .awaitingKey 15 ∧ haltedSession.block.run = .halted aFault ∧ waitSession.block.isHalted = false ∧
    ∃ t f, (at_ 0x5001).run = .running ∧ step (at_ 0x5001) = .next t ∧ t.run = .halted f :=
  ⟨⟨by decide, by decide, ⟨_, rfl, by decide⟩⟩, by decide, by decide, by decide, ⟨_, _, by decide, rfl, rfl⟩⟩

theorem witness_InstructionsKeepTheirFrame :
    ∃ t, exec (.ldB 0) { State.reset with i := 0xFFD } = .next t ∧ t.run = .running := ⟨_, rfl, by decide⟩

theorem witness_PlacedWordRunsNext :
    ({ State.reset with pc := 0xFFF, run := .halted aFault } : State).mem.wf ∧
    decodeTableWord 16 0xD125 = some (.drw 1 2 5) := by decide

/-- Fifteen rows, the longest sprite, and none. -/
theorem witness_DrawFlipsSpriteCells : (List.replicate 15 (0xFF : Byte)).length ≤ 15 ∧ ([] : List Byte).length ≤ 15 := by decide

theorem witness_DrawReportsErasedCells :
    (draw 61 31 [0x80] (State.reset.fb.set 31 61 true)).2 = true ∧ (draw 61 31 [0x80] State.reset.fb).2 = false := by decide

theorem witness_DrawTwiceRestoresGrid :
    ([0x3C, 0x42, 0x81] : List Byte).length ≤ 15 ∧
    (draw 10 4 [0x3C, 0x42, 0x81] (draw 10 4 [0x3C, 0x42, 0x81] State.reset.fb).1).2 = true := by decide

theorem witness_ClsClearsScreen : (at_ 0x00E0).run = .running ∧ (at_ 0x00E0).fetch = some 0x00E0 := by decide

theorem witness_DrwDrawsSprite :
    ({ State.reset with i := 0xFF1 } : State).i.toNat + (15 : SpriteLen).val ≤ 4096 ∧
    ({ State.reset with i := 0x1000 } : State).i.toNat + (0 : SpriteLen).val ≤ 4096 := by decide

theorem witness_DrwOutsideMemoryFaults :
    4096 < ({ State.reset with i := 0xFF2 } : State).i.toNat + (15 : SpriteLen).val ∧
    4096 < ({ State.reset with i := 0x1001 } : State).i.toNat + (0 : SpriteLen).val := by decide

theorem witness_RetPopsReturnAddress :
    (withStack 16 State.reset).sp.val = (15 : Fin 16).val + 1 ∧ (withStack 1 State.reset).sp.val = (0 : Fin 16).val + 1 ∧
    (withStack 0 State.reset).sp.val = 0 := by decide

theorem witness_SysDoesNothing :
    (0x0FFF : Word) &&& 0xF000 = 0x0000 ∧ (0x0FFF : Word) ≠ 0x00E0 ∧ (0x0FFF : Word) ≠ 0x00EE := by decide

theorem witness_JpSetsPc : (0x1FFF : Word) &&& 0xF000 = 0x1000 := by decide

theorem witness_CallPushesReturnAddress :
    (0x2FFF : Word) &&& 0xF000 = 0x2000 ∧ (withStack 15 State.reset).sp.val < 16 ∧ (withStack 16 State.reset).sp.val = 16 := by
  decide

theorem witness_SkipsOnImmediate :
    (0x3FFF : Word) &&& 0xF000 = 0x3000 ∧ (0x4FFF : Word) &&& 0xF000 = 0x4000 := by decide

theorem witness_SkipsOnRegister :
    (0x5FF0 : Word) &&& 0xF00F = 0x5000 ∧ (0x9FF0 : Word) &&& 0xF00F = 0x9000 ∧
    ((0x5001 : Word) &&& 0xF000 = 0x5000 ∨ (0x5001 : Word) &&& 0xF000 = 0x9000) ∧ (0x5001 : Word) &&& 0x000F ≠ 0 := by decide

/-- CALL 0x300 at 0x200, and RET at 0x300. -/
def callRet : State := withBytes 0x300 [0x00, 0xEE] (at_ 0x2300)

/-- `callRet` in the routine. -/
def inRoutine : State := { callRet with pc := 0x300, sp := 1, stack := callRet.stack.set 0 0x202 }

theorem witness_ReturnGoesBehindItsCall :
    instrAt callRet = some (.call 0x300) ∧ callRet.sp.val < 16 ∧ step callRet = .next inRoutine ∧
    CallsMatched inRoutine inRoutine ∧ instrAt inRoutine = some .ret ∧
    ∃ v, step inRoutine = .next v ∧ v.pc = 0x202 :=
  ⟨by decide, by decide, rfl, .none _, by decide, ⟨_, rfl, by decide⟩⟩

theorem witness_RegisterLoads : (0x6FFF : Word) &&& 0xF000 = 0x6000 ∧ (0x8FF0 : Word) &&& 0xF00F = 0x8000 := by decide

theorem witness_BitwiseOperations :
    (0x8FF1 : Word) &&& 0xF00F = 0x8001 ∧ (0x8FF2 : Word) &&& 0xF00F = 0x8002 ∧ (0x8FF3 : Word) &&& 0xF00F = 0x8003 := by
  decide

theorem witness_AddImmediateWraps : (0x7FFF : Word) &&& 0xF000 = 0x7000 := by decide

theorem witness_AddSetsCarry : (14 : RegIx) ≠ vf := by decide

/-- V1 = 5 minus VF = 3 (L2-A21): the flag is 1, and then the subtrahend. -/
theorem witness_SubSetsNoBorrow :
    (1 : Nat) = (if ((withRegs [(1, 5), (15, 3)] State.reset).reg 15).toNat ≤
      ((withRegs [(1, 5), (15, 3)] State.reset).reg 1).toNat then 1 else 0) ∧
    (5 : Nat) = (if (1 : RegIx) = vf then 1 else ((withRegs [(1, 5), (15, 3)] State.reset).reg 1).toNat) ∧
    (1 : Nat) = (if (15 : RegIx) = vf then 1 else ((withRegs [(1, 5), (15, 3)] State.reset).reg 15).toNat) ∧
    (1 : RegIx) ≠ vf := by decide

/-- VF = 0x10 minus V1 = 2 (L2-A30). -/
theorem witness_SubnSetsNoBorrow :
    (1 : Nat) = (if ((withRegs [(1, 2), (15, 16)] State.reset).reg 1).toNat ≤
      ((withRegs [(1, 2), (15, 16)] State.reset).reg 15).toNat then 1 else 0) ∧
    (2 : Nat) = (if (1 : RegIx) = vf then 1 else ((withRegs [(1, 2), (15, 16)] State.reset).reg 1).toNat) ∧
    (1 : Nat) = (if (15 : RegIx) = vf then 1 else ((withRegs [(1, 2), (15, 16)] State.reset).reg 15).toNat) ∧
    (1 : RegIx) ≠ vf := by decide

theorem witness_ShiftsSetShiftedOutBit : (0 : RegIx) ≠ vf := by decide

theorem witness_RndMasksRandomByte : (0x7F : Byte).getLsbD 7 = false := by decide

theorem witness_LdISetsIndex : (0xAFFF : Word) &&& 0xF000 = 0xA000 := by decide

theorem witness_BcdStoresDigits :
    (0xFF33 : Word) &&& 0xF0FF = 0xF033 ∧ State.reset.mem.wf ∧
    ({ State.reset with i := 0xFFD } : State).i.toNat + 3 ≤ 4096 ∧
    4096 < ({ State.reset with i := 0xFFE } : State).i.toNat + 3 := by decide

theorem witness_StoreRegsWritesBlock :
    State.reset.mem.wf ∧ ({ State.reset with i := 0xFF0 } : State).i.toNat + (15 : RegIx).val + 1 ≤ 4096 ∧
    (15 : RegIx) ≤ 15 ∧ 4096 < ({ State.reset with i := 0xFF1 } : State).i.toNat + (15 : RegIx).val + 1 := by decide

theorem witness_LoadRegsReadsBlock :
    ({ State.reset with i := 0xFFF } : State).i.toNat + (0 : RegIx).val + 1 ≤ 4096 ∧ (0 : RegIx) ≤ 0 ∧
    4096 < ({ State.reset with i := 0x1000 } : State).i.toNat + (0 : RegIx).val + 1 := by decide

/-- The block begins at `PC + 2`; it ends at `PC + 3`; and it does so at the top of memory. -/
theorem witness_StoreIsSeenByNextFetch :
    State.reset.mem.wf ∧
    ([(0x200, 0x202, 1), (0x200, 0x1F4, 15), (0xFFC, 0xFF0, 15)] : List (Word × Word × RegIx)).all (fun p =>
      let s := { State.reset with pc := p.1, i := p.2.1 }
      decide (s.i.toNat ≤ s.pc.toNat + 2 ∧ s.pc.toNat + 3 ≤ s.i.toNat + p.2.2.val ∧
        s.i.toNat + p.2.2.val + 1 ≤ 4096)) = true := by decide

theorem witness_KeySkips :
    ((withRegs [(1, 15)] State.reset).reg 1).toNat = (15 : KeyIx).val ∧
    15 < ((withRegs [(1, 16)] State.reset).reg 1).toNat := by decide

theorem witness_TimerTransfers :
    (0xFF07 : Word) &&& 0xF0FF = 0xF007 ∧ (0xFF15 : Word) &&& 0xF0FF = 0xF015 ∧ (0xFF18 : Word) &&& 0xF0FF = 0xF018 := by
  decide

theorem witness_WaitEndsByDeliveredKeyOnly :
    waitSession.block.run = .awaitingKey 15 ∧ waitSession.block.delivered = none ∧
    ∀ cmd ∈ [Command.step, .decrementTimers, .framebufferSnapshot, .updateKeypad [0, 15]],
      cmd = .step ∨ cmd = .decrementTimers ∨ cmd = .framebufferSnapshot ∨
        ∃ p, cmd = .updateKeypad p ∧ ∀ j ∈ p, j < 16 := by
  refine ⟨by decide, by decide, ?_⟩
  simp

theorem witness_DecrementTimersSaturates :
    haltedSession.block.isHalted = true ∧ (Session.start fontDefault).block.isHalted = false := by decide

theorem witness_UpdateKeypadReplacesLevels :
    (∀ k ∈ [0, 15], k < 16) ∧ haltedSession.block.isHalted = true ∧ waitSession.block.isHalted = false := by decide

theorem witness_DeliverKeyPressOnlyInWait :
    waitSession.block.run = .awaitingKey 15 ∧ ∀ x, (Session.start fontDefault).block.run ≠ .awaitingKey x := by
  refine ⟨by decide, fun x => by decide +revert⟩

theorem witness_LoadProgramWritesImage :
    (Session.start fontDefault).block.isHalted = false ∧ (Session.start fontDefault).loadOpen = true ∧
    (Session.start fontDefault).block.mem.wf ∧ (List.replicate 3584 (0 : Byte)).length ≤ 3584 ∧
    3584 < (List.replicate 3585 (0 : Byte)).length := by
  rw [List.length_replicate, List.length_replicate]
  decide

theorem witness_BrokenPreconditionsRefused :
    (∃ k ∈ [3, 16], 16 ≤ k) ∧ 16 ≤ 16 ∧ waitSession.block.isHalted = false ∧ waitSession.loadOpen = false ∧
    ∃ d r, (Session.start fontDefault).apply .step = .next (d, r) ∧ d.loadOpen = false :=
  ⟨by decide, by decide, by decide, by decide, ⟨_, _, rfl, by decide⟩⟩

/-- A key identifier at the boundary is refused, and one below it is not. -/
theorem witness_HaltedIsFinal :
    haltedSession.block.run = .halted aFault ∧
    refusedWith (haltedSession.apply (.updateKeypad [15, 16])) (.keyIdentifier 16) = true ∧
    refusedWith (haltedSession.apply (.deliverKeyPress 16)) (.keyIdentifier 16) = true ∧
    after (haltedSession.apply (.deliverKeyPress 15)) (fun p => decide (p.1 = haltedSession)) = true := by decide

/-- A FONT that is not the default. -/
theorem witness_ConstructionResetValues :
    (List.replicate 80 (0xAA : Byte)).length = 80 ∧
    State.construct (List.replicate 80 0xAA) = State.construct (List.replicate 80 0xAA) := ⟨by simp, rfl⟩

theorem witness_StepKeepsInvariant : Inv State.reset ∧ ∃ t, step State.reset = .next t :=
  ⟨⟨by decide, fun h => absurd rfl h⟩, ⟨_, rfl⟩⟩

theorem witness_CommandsKeepInvariant :
    SessionInv waitSession ∧ ∃ d r, waitSession.apply (.deliverKeyPress 15) = .next (d, r) :=
  ⟨⟨⟨by decide, fun h => absurd rfl h⟩, by decide⟩, ⟨_, _, rfl⟩⟩

/-- The greatest `PC` a step leaves (L2-CT13), and a return address of 0x1000. -/
theorem witness_StepKeepsPcBounded :
    PcBounded { State.reset with pc := 0x10FE, stack := Vector.replicate 16 0x1000 } ∧ ∃ t, step State.reset = .next t :=
  ⟨⟨by decide, by decide⟩, ⟨_, rfl⟩⟩

end Sys2Proof.Tests
end

section
/-! R41, R42: what construction leaves in the state. -/

namespace Sys2Proof.Machine

/-- Past the font bytes an unlisted address reads as 0x00 (R42). -/
theorem Memory.unlisted_eq_zero {a : Nat} (h : 0x50 ≤ a) : Memory.unlisted a = 0 :=
  List.getD_eq_default fontDefault 0 h

/-- Construction changes memory only: the reset state, with all of a FONT of 80 bytes written from address 0 (R41, R44). -/
theorem State.construct_eq_setMem {font : List Byte} (h : font.length = 80) :
    State.construct font = State.reset.setMem (State.reset.mem.writeBytes 0 font) := by
  rw [State.construct, List.take_of_length_le (Nat.le_of_eq h)]
  rfl

/-- A FONT of 80 bytes stands at 0x000 to 0x04F (R42, R43). -/
theorem State.construct_read_font {font : List Byte} (h : font.length = 80) (a : Nat) (ha : a < font.length) :
    (State.construct font).mem.read a = font[a] := by
  have fits : 0 + font.length ≤ Config.memSize := by simp [h, Config.memSize]
  rw [State.construct_eq_setMem h, State.setMem_mem]
  simpa using Memory.read_writeBytes_inside Memory.wf_reset font fits a ha

/-- Every byte past a FONT of 80 bytes is 0x00 (R42). -/
theorem State.construct_read_rest {font : List Byte} (h : font.length = 80) {a : Nat} (ha : 0x50 ≤ a) :
    (State.construct font).mem.read a = 0 := by
  rw [State.construct_eq_setMem h, State.setMem_mem,
    Memory.read_writeBytes_outside State.reset.mem font 0 a (by omega)]
  exact Memory.unlisted_eq_zero ha

/-- Every register is 0 at reset (R41). -/
theorem State.reset_reg (x : RegIx) : State.reset.reg x = 0 := by simp [State.reg, State.reset]

/-- Every stack slot is 0 at reset (R41). -/
theorem State.reset_stack (j : Fin 16) : State.reset.stack[j.val] = 0 := by simp [State.reset]

/-- Every key is up at reset (R41). -/
theorem State.reset_key (k : KeyIx) : State.reset.key[k.val] = false := by simp [State.reset]

/-- The grid is clear at reset (R41). -/
theorem State.reset_fb : State.reset.fb = Grid.clear := rfl

/-- Settles O56: the memory clauses are reads of a block write over the reset memory, inside and outside the block; every
other item is the reset state's own, since construction writes memory only. -/
theorem constructionResetValues : Obligations.ConstructionResetValues := by
  rintro font s h rfl
  refine ⟨State.construct_read_font h, fun a ha _ => State.construct_read_rest h ha, ?_⟩
  rw [State.construct_eq_setMem h]
  exact ⟨State.reset_reg, rfl, rfl, State.reset_stack, rfl, rfl, rfl, State.reset_key,
    fun r c => State.reset_fb ▸ Grid.get_clear r c, rfl, rfl⟩

end Sys2Proof.Machine
end

section
/-! R75: the decoder and the opcode table. Both are functions of the same fields of a word, so a decoded word matches its own
row, and a word that is refused matches none. -/

namespace Sys2Proof

/-! ### Rows of the table that apply to one word -/

/-- A row that applies fixes every bit of the word that lies under its mask. -/
theorem and_eq_of_rowApplies {w c : Word} {row : Word × Word} (hc : row.2 &&& c = c) (h : rowApplies w row = true) :
    w &&& c = row.1 &&& c := by
  rw [← eq_of_beq h, BitVec.and_assoc, hc]

/-- Two rows that apply to one word ask the same of the bits under both masks. -/
theorem rowApplies_agree {w : Word} {a b : Word × Word} (ha : rowApplies w a = true) (hb : rowApplies w b = true) :
    a.1 &&& b.2 = b.1 &&& a.2 := by
  rw [← eq_of_beq ha, ← eq_of_beq hb, BitVec.and_assoc, BitVec.and_assoc, BitVec.and_comm a.2]

/-- Only row 2, 0nnn, agrees with others under the common mask: with the two rows before it. -/
theorem tableRows_zipIdx_agree : tableRows.zipIdx.Pairwise fun a b =>
    a.1.1 &&& b.1.2 = b.1.1 &&& a.1.2 → a.2 ≤ 1 ∧ b.2 = 2 := by
  decide

/-- Of two rows that apply to one word, the later is 0nnn and the earlier one of the two before it (R75). -/
theorem rowApplies_overlap {w : Word} {p q : Fin tableRows.length} (hpq : p < q)
    (hp : rowApplies w tableRows[p] = true) (hq : rowApplies w tableRows[q] = true) : p.val ≤ 1 ∧ q.val = 2 := by
  have h := List.pairwise_iff_getElem.1 tableRows_zipIdx_agree p q (by simp) (by simp) hpq
  simp only [List.getElem_zipIdx, Nat.zero_add] at h
  exact h (rowApplies_agree hp hq)

/-- Every mask keeps `w[15:12]` (R74). -/
theorem tableRows_mask_top : tableRows.all (fun row => row.2 &&& 0xF000#16 == 0xF000#16) = true := by decide

/-- A row that applies to a word is of the word's family. -/
theorem fieldOp_eq_of_rowApplies {w : Word} {row : Word × Word} (hrow : row ∈ tableRows) (h : rowApplies w row = true) :
    fieldOp row.1 = fieldOp w := by
  have e := congrArg BitVec.toNat (and_eq_of_rowApplies (eq_of_beq (List.all_eq_true.1 tableRows_mask_top row hrow)) h)
  rw [and_F000_toNat, and_F000_toNat, ← fieldOp_eq, ← fieldOp_eq] at e
  omega

/-- Every row of the family `op` keeps the bits of `c` and fixes the field `w mod m` to one of `subs` (R77 to R80). -/
def familyFixes (op : Nat) (c : Word) (m : Nat) (subs : List Nat) : Bool :=
  tableRows.all fun row => fieldOp row.1 != op || row.2 &&& c == c && subs.contains (row.1.toNat % m)

theorem mem_subs_of_familyFixes {op : Nat} {c : Word} {m : Nat} {subs : List Nat} (h : familyFixes op c m subs = true)
    {row : Word × Word} (hrow : row ∈ tableRows) (hop : fieldOp row.1 = op) :
    row.2 &&& c = c ∧ row.1.toNat % m ∈ subs := by
  simpa [hop] using List.all_eq_true.1 h row hrow

/-- No row applies to a word of a family whose rows all fix one more field, `w mod m` under the mask `c`, to a value in
`subs`, when the word's own field is not in `subs` (R77 to R81). -/
theorem no_row_of_field {w c : Word} {m : Nat} {subs : List Nat}
    (hc : ∀ v : Word, (v &&& c).toNat = v.toNat / 4096 * 4096 + v.toNat % m)
    (hrows : familyFixes (fieldOp w) c m subs = true) (hw : w.toNat % m ∉ subs) :
    ∀ row ∈ tableRows, rowApplies w row = false := by
  intro row hrow
  refine Bool.eq_false_iff.2 fun h => hw ?_
  have hop := fieldOp_eq_of_rowApplies hrow h
  obtain ⟨hmask, hsub⟩ := mem_subs_of_familyFixes hrows hrow hop
  have e := congrArg BitVec.toNat (and_eq_of_rowApplies hmask h)
  rw [hc, hc, ← fieldOp_eq, ← fieldOp_eq, hop] at e
  rwa [Nat.add_left_cancel e]

/-- `no_row_of_field` for the families told apart by `w[3:0]` (R77, R80). -/
theorem no_row_of_fieldN {w : Word} (subs : List Nat) (hrows : familyFixes (fieldOp w) 0xF00F 16 subs = true)
    (hw : (fieldN w).val ∉ subs) : ∀ row ∈ tableRows, rowApplies w row = false :=
  no_row_of_field and_F00F_toNat hrows (fieldN_val w ▸ hw)

/-- `no_row_of_field` for the families told apart by `w[7:0]` (R78, R79). -/
theorem no_row_of_fieldKk {w : Word} (subs : List Nat) (hrows : familyFixes (fieldOp w) 0xF0FF 256 subs = true)
    (hw : (fieldKk w).toNat ∉ subs) : ∀ row ∈ tableRows, rowApplies w row = false :=
  no_row_of_field and_F0FF_toNat hrows (fieldKk_toNat w ▸ hw)

/-! ### A word is the word of its own fields (R72) -/

theorem encodeA_fields {w : Word} {op : BitVec 4} (hop : fieldOp w = op.toNat) : encodeA op (fieldNnn w) = w := by
  apply BitVec.eq_of_toNat_eq
  rw [encodeA_toNat, ← hop, fieldOp_eq, fieldNnn_toNat]
  omega

theorem encodeXK_fields {w : Word} {op : BitVec 4} (hop : fieldOp w = op.toNat) :
    encodeXK op (fieldX w) (fieldKk w) = w := by
  apply BitVec.eq_of_toNat_eq
  rw [encodeXK_toNat, ← hop, fieldOp_eq, fieldX_val, fieldKk_toNat]
  omega

theorem encodeXY_fields {w : Word} {op sub : BitVec 4} (hop : fieldOp w = op.toNat) (hn : (fieldN w).val = sub.toNat) :
    encodeXY op (fieldX w) (fieldY w) sub = w := by
  apply BitVec.eq_of_toNat_eq
  rw [encodeXY_toNat, ← hop, ← hn, fieldOp_eq, fieldX_val, fieldY_val, fieldN_val]
  omega

theorem encodeX_fields {w : Word} {op : BitVec 4} {sub : Byte} (hop : fieldOp w = op.toNat)
    (hkk : (fieldKk w).toNat = sub.toNat) : encodeX op (fieldX w) sub = w := by
  rw [← BitVec.eq_of_toNat_eq hkk]
  exact encodeXK_fields hop

/-! ### What decoding answers, family by family (R74 to R81) -/

/-- What R75 asks of the answer for a word: an instruction is well formed and of this very word; a refusal names the word, and
no row applies to it. -/
def Answers (w : Word) : Except DecodeError Instr → Prop
  | .ok i => encode i = w ∧ i.wellFormed = true
  | .error e => e = .illegalOpcode w ∧ ∀ row ∈ tableRows, rowApplies w row = false

theorem decodeFamily0_answers {w : Word} (hop : fieldOp w = 0x0) : Answers w (.ok (decodeFamily0 w)) := by
  have hw : encodeA 0x0 (fieldNnn w) = w := encodeA_fields hop
  unfold decodeFamily0
  split
  case isTrue h => exact ⟨h.symm, rfl⟩
  case isFalse hcls =>
    split
    case isTrue h => exact ⟨h.symm, rfl⟩
    case isFalse hret =>
      have ne : ∀ k : Addr12, w ≠ encodeA 0x0 k → fieldNnn w ≠ k := fun k hk e => hk (e ▸ hw.symm)
      exact ⟨hw, by simpa [Instr.wellFormed] using ⟨ne 0x0E0 hcls, ne 0x0EE hret⟩⟩

theorem decodeFamily8_answers {w : Word} (hop : fieldOp w = 0x8) : Answers w (decodeFamily8 w) := by
  unfold decodeFamily8
  split
  case h_10 => exact ⟨rfl, no_row_of_fieldN [0, 1, 2, 3, 4, 5, 6, 7, 0xE] (by rw [hop]; decide) (by simp_all)⟩
  all_goals exact ⟨encodeXY_fields hop ‹_›, rfl⟩

theorem decodeFamilyE_answers {w : Word} (hop : fieldOp w = 0xE) : Answers w (decodeFamilyE w) := by
  unfold decodeFamilyE
  split
  case h_3 => exact ⟨rfl, no_row_of_fieldKk [0x9E, 0xA1] (by rw [hop]; decide) (by simp_all)⟩
  all_goals exact ⟨encodeX_fields hop ‹_›, rfl⟩

theorem decodeFamilyF_answers {w : Word} (hop : fieldOp w = 0xF) : Answers w (decodeFamilyF w) := by
  unfold decodeFamilyF
  split
  case h_10 =>
    exact ⟨rfl, no_row_of_fieldKk [0x07, 0x0A, 0x15, 0x18, 0x1E, 0x29, 0x33, 0x55, 0x65] (by rw [hop]; decide)
      (by simp_all)⟩
  all_goals exact ⟨encodeX_fields hop ‹_›, rfl⟩

/-- Families 5 and 9, whose rows all fix `w[3:0]` to 0 (R80). -/
theorem decodeXY0_answers {w : Word} {i : Instr} (hwf : i.wellFormed = true)
    (hrows : familyFixes (fieldOp w) 0xF00F 16 [0] = true) (henc : (fieldN w).val = 0 → encode i = w) :
    Answers w (decodeXY0 w i) := by
  unfold decodeXY0
  split
  case isTrue h => exact ⟨henc (congrArg Fin.val h), hwf⟩
  case isFalse h => exact ⟨rfl, no_row_of_fieldN [0] hrows (by simpa using h)⟩

/-- The decoder answers every word as R75 asks; its last arm is never reached, a nibble being below 16. -/
theorem decode_answers (w : Word) : Answers w (decode w) := by
  unfold decode
  split
  case h_1 hop => exact decodeFamily0_answers hop
  case h_6 hop => exact decodeXY0_answers rfl (by rw [hop]; decide) (fun hn => encodeXY_fields hop hn)
  case h_9 hop => exact decodeFamily8_answers hop
  case h_10 hop => exact decodeXY0_answers rfl (by rw [hop]; decide) (fun hn => encodeXY_fields hop hn)
  case h_14 hop => exact ⟨encodeXY_fields hop rfl, rfl⟩
  case h_15 hop => exact decodeFamilyE_answers hop
  case h_16 hop => exact decodeFamilyF_answers hop
  case h_17 =>
    have : fieldOp w < 16 := (w.extractLsb' 12 4).isLt
    interval_cases fieldOp w <;> contradiction
  case h_2 hop | h_3 hop | h_11 hop | h_12 hop => exact ⟨encodeA_fields hop, rfl⟩
  case h_4 hop | h_5 hop | h_7 hop | h_8 hop | h_13 hop => exact ⟨encodeXK_fields hop, rfl⟩

/-! ### The first row that applies -/

/-- Every instruction's word matches the instruction's own row (R75). -/
theorem rowApplies_encode (i : Instr) : Laws.TableRow.Statement i := by
  open Laws.TableRow in
  cases i
  exacts [cls, ret, sys _, jp _, call _, seImm _ _, sneImm _ _, seReg _ _, ldImm _ _, addImm _ _, ldReg _ _, orReg _ _,
    andReg _ _, xorReg _ _, addReg _ _, subReg _ _, shr _ _, subn _ _, shl _ _, sneReg _ _, ldI _, jpV0 _, rnd _ _,
    drw _ _ _, skp _, sknp _, ldVxDt _, ldVxK _, ldDtVx _, ldStVx _, addI _, ldF _, ldB _, storeRegs _, loadRegs _]

/-- Every instruction has a row in the table (R75). -/
theorem Instr.row_lt (i : Instr) : i.row < tableRows.length := by cases i <;> simp [Instr.row, tableRows]

/-- Row 2 is SYS's row (R75). -/
theorem Instr.eq_sys_of_row {i : Instr} (h : i.row = 2) : ∃ nnn, i = .sys nnn := by
  cases i with
  | sys nnn => exact ⟨nnn, rfl⟩
  | _ => simp [Instr.row] at h

/-- Distinct addresses give distinct words (R72). -/
theorem encodeA_injective (op : BitVec 4) : Function.Injective (encodeA op) := fun a b h => by
  have e := congrArg BitVec.toNat h
  rw [encodeA_toNat, encodeA_toNat] at e
  exact BitVec.eq_of_toNat_eq (Nat.add_left_cancel e)

/-- Neither of the two rows before 0nnn applies to the word of a well-formed SYS (R76). -/
theorem not_rowApplies_encode_sys {nnn : Addr12} (hwf : (Instr.sys nnn).wellFormed = true) (j : Fin tableRows.length)
    (hj : j.val ≤ 1) : rowApplies (encode (.sys nnn)) tableRows[j] = false := by
  have ne : ∀ k : Addr12, nnn ≠ k → rowApplies (encodeA 0x0 nnn) (encodeA 0x0 k, 0xFFFF) = false := fun k hk =>
    Bool.eq_false_iff.2 fun h => hk (encodeA_injective _ (BitVec.and_allOnes.symm.trans (eq_of_beq h)))
  have ⟨hcls, hret⟩ : nnn ≠ 0x0E0 ∧ nnn ≠ 0x0EE := by simpa [Instr.wellFormed] using hwf
  match j, hj with
  | ⟨0, _⟩, _ => exact ne 0x0E0 hcls
  | ⟨1, _⟩, _ => exact ne 0x0EE hret

/-- The first row that applies to the word of a well-formed instruction is the instruction's own: an earlier one that
applied would be a row before 0nnn, whose word is no SYS. -/
theorem firstRow_encode {i : Instr} (hwf : i.wellFormed = true) : firstRow (encode i) = some i.row := by
  have hi : rowApplies (encode i) (tableRows[i.row]'i.row_lt) = true := by
    simpa [Laws.TableRow.Statement, i.row_lt] using rowApplies_encode i
  refine List.findIdx?_eq_some_iff_getElem.2 ⟨i.row_lt, hi, fun j hj happ => ?_⟩
  obtain ⟨hj1, hi2⟩ := rowApplies_overlap (p := ⟨j, hj.trans i.row_lt⟩) (q := ⟨i.row, i.row_lt⟩) hj happ hi
  obtain ⟨nnn, rfl⟩ := Instr.eq_sys_of_row hi2
  exact absurd happ (by simpa using not_rowApplies_encode_sys hwf ⟨j, _⟩ hj1)

/-- Settles O3: what each family answers gives the word's instruction or the lack of a row; that rows agree under their
common mask gives the overlaps. -/
theorem decodeFollowsOpcodeTable : Obligations.DecodeFollowsOpcodeTable := by
  refine ⟨fun w => ?_, fun w p q => rowApplies_overlap⟩
  have h := decode_answers w
  split
  case h_1 i hd =>
    rw [hd] at h
    obtain ⟨henc, hwf⟩ := h
    rw [← henc]
    exact firstRow_encode hwf
  case h_2 e hd =>
    rw [hd] at h
    obtain ⟨he, hnone⟩ := h
    exact ⟨List.findIdx?_eq_none_iff.2 hnone, he⟩

end Sys2Proof
end

section
/-! R102: `Draw` reports a hit exactly when it unset a cell. Pixel for pixel a hit is a set cell that was unset, and no cell is
touched twice, so no later pixel sets the cell again. -/

namespace Sys2Proof.Machine

/-- From `d` to `e` a hit was recorded exactly when a set cell was unset (R102). -/
def HitIffErased (d e : Grid × Bool) : Prop :=
  e.2 = true ↔ d.2 = true ∨ ∃ r c, d.1.get r c = true ∧ e.1.get r c = false

/-- The reports of two parts of a drawing join when no cell is changed by both. -/
theorem HitIffErased.trans {d e f : Grid × Bool} (hde : HitIffErased d e) (hef : HitIffErased e f)
    (once : ∀ r c, e.1.get r c = d.1.get r c ∨ f.1.get r c = e.1.get r c) : HitIffErased d f := by
  have cell : ∀ r c, d.1.get r c = true ∧ f.1.get r c = false ↔
      (d.1.get r c = true ∧ e.1.get r c = false) ∨ (e.1.get r c = true ∧ f.1.get r c = false) := by
    intro r c
    obtain h | h := once r c <;> simp [h]
  unfold HitIffErased at *
  simp only [hef, hde, cell, exists_or, or_assoc]

/-- One row reports its erased cells: a set pixel on a set cell is what unsets it (R101, R102). -/
theorem drawRow_hitIffErased (x0 : Nat) (r : Fin 32) (b : Byte) (d : Grid × Bool) :
    HitIffErased d (drawRow x0 r b d) := by
  refine (drawRow_hit x0 r b d).trans (or_congr_right ⟨?_, ?_⟩)
  · rintro ⟨c, hk, hp, hg⟩
    exact ⟨r, c, hg, by simp [drawRow_get, hk, hp, hg]⟩
  · rintro ⟨r', c, hg, he⟩
    obtain ⟨⟨rfl, hk⟩, hp⟩ : (r' = r ∧ colOffset x0 c < 8) ∧ spriteBit b (colOffset x0 c) = true := by
      simpa [drawRow_get, hg] using he
    exact ⟨c, hk, hp, hg⟩

/-- One row leaves every other row of the grid alone (R101). -/
theorem drawRow_get_of_ne (x0 : Nat) {r r' : Fin 32} (h : r' ≠ r) (c : Fin 64) (b : Byte) (d : Grid × Bool) :
    (drawRow x0 r b d).1.get r' c = d.1.get r' c := by
  simp [drawRow_get, h]

/-- The rows of a sprite leave a row of the grid alone that none of them falls on (R101). -/
theorem drawRows_get_of_ne (x0 y : Nat) (bs : List Byte) (d : Grid × Bool) (r : Fin 32) (c : Fin 64)
    (h : ∀ k < bs.length, r ≠ wrapRow (y + k)) : (drawRows x0 y bs d).1.get r c = d.1.get r c := by
  induction bs generalizing y d with
  | nil => rfl
  | cons b bs ih =>
    have rest : ∀ k < bs.length, r ≠ wrapRow (y + 1 + k) := fun k hk => by
      rw [Nat.add_right_comm, Nat.add_assoc]
      exact h (k + 1) (Nat.succ_lt_succ hk)
    have first : r ≠ wrapRow y := h 0 (Nat.succ_pos _)
    rw [drawRows, ih (y + 1) _ rest, drawRow_get_of_ne x0 first]

/-- Fewer than 32 rows down is another row of the grid (R101). -/
theorem wrapRow_ne_wrapRow_add {y k : Nat} (hk : k + 1 < 32) : wrapRow y ≠ wrapRow (y + 1 + k) := by
  simp only [wrapRow, Fin.ofNat, ne_eq, Fin.ext_iff]
  omega

/-- A sprite no higher than the grid reports its erased cells: its first row is not one of the rest (R101, R102). -/
theorem drawRows_hitIffErased (x0 y : Nat) (bs : List Byte) (d : Grid × Bool) (h : bs.length ≤ 32) :
    HitIffErased d (drawRows x0 y bs d) := by
  induction bs generalizing y d with
  | nil => simp [HitIffErased, drawRows]
  | cons b bs ih =>
    rw [List.length_cons] at h
    refine (drawRow_hitIffErased x0 (wrapRow y) b d).trans (ih (y + 1) _ (by omega)) fun r c => ?_
    by_cases hr : r = wrapRow y
    · subst hr
      exact .inr (drawRows_get_of_ne _ _ _ _ _ _ fun k hk => wrapRow_ne_wrapRow_add (by omega))
    · exact .inl (drawRow_get_of_ne x0 hr c b d)

/-- Settles O18: row by row a hit is an erased cell, and at most 15 rows fall on distinct rows of the grid, so the erased cell
stays erased. -/
theorem drawReportsErasedCells : Obligations.DrawReportsErasedCells := by
  intro x0 y0 bs g h
  have hit : HitIffErased (g, false) (draw x0 y0 bs g) := drawRows_hitIffErased x0 y0 bs (g, false) (by omega)
  simpa [HitIffErased] using hit

end Sys2Proof.Machine
end

section
/-! R104, R106: what 00E0 does, and the output of a step that executes an instruction (R93). -/

namespace Sys2Proof.Machine

/-- What a step that executes `i` without halting puts out (R92, R93). -/
theorem stepOutput_of_exec {s t : State} {w : Word} {i : Instr} (hrun : s.run = .running) (hfetch : s.fetch = some w)
    (hdec : decode w = .ok i) (hexec : exec i s = .next t) (ht : ∀ f, t.run ≠ .halted f) :
    stepOutput s = .needsRedraw (signalsRedraw i) := by
  have hstep : executeStep s = .next t := by simp only [executeStep, hfetch, hdec, hexec]
  simp only [stepOutput, hrun, hstep, hfetch]
  cases htr : t.run with
  | halted f => exact absurd htr (ht f)
  | running => simp [outputAfter, hdec, Except.toOption]
  | awaitingKey x => simp [outputAfter, hdec, Except.toOption]

/-- The meaning of CLS (R106). -/
theorem exec_cls (s : State) : exec .cls s = .next (s.advance.setFb Grid.clear) := rfl

/-- Advancing `PC` and replacing the grid is within the frame of an instruction that may write the framebuffer. -/
theorem frame_advance_setFb (s : State) (g : Grid) : Frame s (s.advance.setFb g) { fb := true } := by
  simp [Frame]

/-- 0x00E0 is CLS, the first row of the table (R75, R106). -/
theorem decode_00E0 : decode 0x00E0 = .ok .cls := by decide

/-- Settles O20: the state after CLS is the advanced state with the cleared grid, which is not Halted, and CLS signals no
redraw. -/
theorem clsClearsScreen : Obligations.ClsClearsScreen := by
  refine ⟨decode_00E0, fun s => ⟨_, exec_cls s, ?_, rfl, frame_advance_setFb s Grid.clear⟩, fun s hrun hfetch => ?_⟩
  · exact fun r c => Grid.get_clear r c
  · exact stepOutput_of_exec hrun hfetch decode_00E0 (exec_cls s) (by simp [hrun])

end Sys2Proof.Machine
end

section
/-! The rows of the opcode table that one or two nibbles of the word choose (R74, R75, R80): which word decodes to what, from
the bits its row fixes. -/

namespace Sys2Proof.Machine

/-! ### From the bits a row fixes to the fields the decoder reads -/

/-- The bits under the mask 0xF000 are the family (R72). -/
theorem fieldOp_eq_of_and_F000 {w pat : Word} (h : w &&& 0xF000 = pat) : fieldOp w = fieldOp pat := by
  have top : w.toNat / 4096 * 4096 = pat.toNat := (and_F000_toNat w).symm.trans (congrArg BitVec.toNat h)
  rw [fieldOp_eq, fieldOp_eq]
  omega

/-- The bits under the mask 0x000F are the field `n` (R72). -/
theorem fieldN_eq_zero_iff (w : Word) : fieldN w = 0 ↔ w &&& 0x000F = 0 := by
  have low : (w &&& 0x000F).toNat = w.toNat % 16 := Nat.and_two_pow_sub_one_eq_mod w.toNat 4
  rw [Fin.ext_iff, fieldN_val, ← low]
  exact BitVec.toNat_inj (y := 0)

/-- A row whose mask is 0xF000 decodes as its family does. -/
theorem decodesAs_of_fieldOp {pat : Word} {f : Word → Instr} (op : Nat) (hop : fieldOp pat = op)
    (hdec : ∀ w, fieldOp w = op → decode w = .ok (f w)) : DecodesAs 0xF000 pat f :=
  fun w hw => hdec w ((fieldOp_eq_of_and_F000 hw).trans hop)

/-- A row whose mask is 0xF00F and whose low nibble is 0 decodes as its family does a word with `n = 0`. -/
theorem decodesAs_of_fieldOp_fieldN {pat : Word} {f : Word → Instr} (op : Nat) (hop : fieldOp pat = op)
    (hn : pat &&& 0x000F = 0) (hdec : ∀ w, fieldOp w = op → fieldN w = 0 → decode w = .ok (f w)) :
    DecodesAs 0xF00F pat f := by
  intro w hw
  have under (c : Word) (hc : 0xF00F &&& c = c) : w &&& c = pat &&& c :=
    and_eq_of_rowApplies (row := (pat, 0xF00F)) hc (beq_iff_eq.2 hw)
  have hopw : fieldOp w = op := calc
    fieldOp w = fieldOp (pat &&& 0xF000) := fieldOp_eq_of_and_F000 (under 0xF000 rfl)
    _ = fieldOp pat := (fieldOp_eq_of_and_F000 rfl).symm
    _ = op := hop
  exact hdec w hopw ((fieldN_eq_zero_iff w).2 ((under 0x000F rfl).trans hn))

/-! ### The families of control transfer (R74, R76, R80) -/

variable {w : Word}

theorem decode_of_fieldOp_0 (hop : fieldOp w = 0x0) : decode w = .ok (decodeFamily0 w) := by simp only [decode, hop]

theorem decode_of_fieldOp_1 (hop : fieldOp w = 0x1) : decode w = .ok (.jp (fieldNnn w)) := by simp only [decode, hop]

theorem decode_of_fieldOp_3 (hop : fieldOp w = 0x3) : decode w = .ok (.seImm (fieldX w) (fieldKk w)) := by
  simp only [decode, hop]

theorem decode_of_fieldOp_4 (hop : fieldOp w = 0x4) : decode w = .ok (.sneImm (fieldX w) (fieldKk w)) := by
  simp only [decode, hop]

theorem decode_of_fieldOp_5 (hop : fieldOp w = 0x5) : decode w = decodeXY0 w (.seReg (fieldX w) (fieldY w)) := by
  simp only [decode, hop]

theorem decode_of_fieldOp_9 (hop : fieldOp w = 0x9) : decode w = decodeXY0 w (.sneReg (fieldX w) (fieldY w)) := by
  simp only [decode, hop]

/-- Family 0 outside its two fixed words is SYS (R76). -/
theorem decodeFamily0_of_ne (hcls : w ≠ 0x00E0) (hret : w ≠ 0x00EE) : decodeFamily0 w = .sys (fieldNnn w) :=
  (if_neg hcls).trans (if_neg hret)

theorem decodeXY0_of_fieldN_eq (hn : fieldN w = 0) (i : Instr) : decodeXY0 w i = .ok i := if_pos hn

theorem decodeXY0_of_fieldN_ne (hn : fieldN w ≠ 0) (i : Instr) : decodeXY0 w i = .error (.illegalOpcode w) := if_neg hn

end Sys2Proof.Machine
end

section
/-! 41_control_flow.md: SYS, JP and the four skips do nothing but set `PC`. Each meaning is written as one `setPc`, whose frame
is everything else. -/

namespace Sys2Proof.Machine

/-! ### Setting `PC` and skipping -/

/-- Setting `PC` is within every frame: it changes nothing else (R122). -/
theorem frame_setPc (s : State) (a : Word) : Frame s (s.setPc a) {} := by simp [Frame]

/-- The advance and then a skip add 2 to `PC` twice when the skip is taken, and once when not (R97, R98). -/
theorem State.advance_skipIf (s : State) (c : Bool) :
    s.advance.skipIf c = s.setPc (if c then s.pc + 4 else s.pc + 2) := by
  cases c with
  | false => rfl
  | true => exact congrArg s.setPc (BitVec.add_assoc s.pc 2 2)

/-- A skip on equality. -/
theorem State.advance_skipIf_beq (s : State) (a b : Byte) :
    s.advance.skipIf (a == b) = s.setPc (if a = b then s.pc + 4 else s.pc + 2) := by
  simp only [State.advance_skipIf, beq_iff_eq]

/-- A skip on difference. -/
theorem State.advance_skipIf_bne (s : State) (a b : Byte) :
    s.advance.skipIf (a != b) = s.setPc (if a = b then s.pc + 2 else s.pc + 4) := by
  simp only [State.advance_skipIf, bne_iff_ne, ite_not]

/-! ### The meanings -/

variable (s : State)

theorem exec_sys (nnn : Addr12) : exec (.sys nnn) s = .next (s.setPc (s.pc + 2)) := rfl

theorem exec_jp (nnn : Addr12) : exec (.jp nnn) s = .next (s.setPc (zextNnn nnn)) := rfl

theorem exec_seImm (x : RegIx) (kk : Byte) :
    exec (.seImm x kk) s = .next (s.setPc (if s.reg x = kk then s.pc + 4 else s.pc + 2)) :=
  congrArg Host.Outcome.next (s.advance_skipIf_beq _ _)

theorem exec_sneImm (x : RegIx) (kk : Byte) :
    exec (.sneImm x kk) s = .next (s.setPc (if s.reg x = kk then s.pc + 2 else s.pc + 4)) :=
  congrArg Host.Outcome.next (s.advance_skipIf_bne _ _)

theorem exec_seReg (x y : RegIx) :
    exec (.seReg x y) s = .next (s.setPc (if s.reg x = s.reg y then s.pc + 4 else s.pc + 2)) :=
  congrArg Host.Outcome.next (s.advance_skipIf_beq _ _)

theorem exec_sneReg (x y : RegIx) :
    exec (.sneReg x y) s = .next (s.setPc (if s.reg x = s.reg y then s.pc + 2 else s.pc + 4)) :=
  congrArg Host.Outcome.next (s.advance_skipIf_bne _ _)

/-- An address field keeps its value as a word (R73). -/
theorem zextNnn_toNat (nnn : Addr12) : (zextNnn nnn).toNat = nnn.toNat :=
  BitVec.toNat_setWidth_of_le (by decide)

end Sys2Proof.Machine
end

section
/-! 41_control_flow.md R124, R125, R127 to R130: the obligations of SYS, JP and the skips. -/

namespace Sys2Proof.Machine

/-- Settles O24: a word of family 0 that is neither CLS nor RET is SYS, whose meaning only sets `PC`. -/
theorem sysDoesNothing : Obligations.SysDoesNothing := by
  refine ⟨fun w hw hcls hret => ?_, fun nnn s => ⟨_, exec_sys s nnn, rfl, frame_setPc s _⟩⟩
  rw [decode_of_fieldOp_0 (fieldOp_eq_of_and_F000 hw), decodeFamily0_of_ne hcls hret]

/-- Settles O25: family 1 is JP, whose meaning sets `PC` to the zero-extended address. -/
theorem jpSetsPc : Obligations.JpSetsPc :=
  ⟨decodesAs_of_fieldOp 0x1 rfl fun _ => decode_of_fieldOp_1,
    fun nnn s => ⟨_, exec_jp s nnn, zextNnn_toNat nnn, frame_setPc s _⟩⟩

/-- Settles O27: families 3 and 4 are SE and SNE with a byte, whose meanings set `PC` by the comparison. -/
theorem skipsOnImmediate : Obligations.SkipsOnImmediate :=
  ⟨decodesAs_of_fieldOp 0x3 rfl fun _ => decode_of_fieldOp_3, decodesAs_of_fieldOp 0x4 rfl fun _ => decode_of_fieldOp_4,
    fun x kk s => ⟨⟨_, exec_seImm s x kk, rfl, frame_setPc s _⟩, ⟨_, exec_sneImm s x kk, rfl, frame_setPc s _⟩⟩⟩

/-- Settles O28: families 5 and 9 are SE and SNE of two registers when `n = 0` and illegal otherwise; the meanings set `PC` by
the comparison. -/
theorem skipsOnRegister : Obligations.SkipsOnRegister := by
  refine ⟨?se, ?sne, ?illegal, fun x y s =>
    ⟨⟨_, exec_seReg s x y, rfl, frame_setPc s _⟩, ⟨_, exec_sneReg s x y, rfl, frame_setPc s _⟩⟩⟩
  case se =>
    exact decodesAs_of_fieldOp_fieldN 0x5 rfl rfl fun _ hop hn =>
      (decode_of_fieldOp_5 hop).trans (decodeXY0_of_fieldN_eq hn _)
  case sne =>
    exact decodesAs_of_fieldOp_fieldN 0x9 rfl rfl fun _ hop hn =>
      (decode_of_fieldOp_9 hop).trans (decodeXY0_of_fieldN_eq hn _)
  case illegal =>
    intro w hfam hlow
    have hn : fieldN w ≠ 0 := mt (fieldN_eq_zero_iff w).1 hlow
    rcases hfam with h5 | h9
    · exact (decode_of_fieldOp_5 (fieldOp_eq_of_and_F000 h5)).trans (decodeXY0_of_fieldN_ne hn _)
    · exact (decode_of_fieldOp_9 (fieldOp_eq_of_and_F000 h9)).trans (decodeXY0_of_fieldN_ne hn _)

end Sys2Proof.Machine
end

section
/-! Families 6, 7 and 8 of the opcode table (R74, R75, R77): which word decodes to what. The mask 0xF00F fixes the family and
the field `n`, and family 8 is decoded by that field. -/

namespace Sys2Proof.Machine

/-- The bits under the mask 0xF00F are the family and the field `n` (R72). -/
theorem fieldOp_fieldN_eq_of_and_F00F {w pat : Word} (h : w &&& 0xF00F = pat) :
    fieldOp w = pat.toNat / 4096 ∧ (fieldN w).val = pat.toNat % 16 := by
  have bits : w.toNat / 4096 * 4096 + w.toNat % 16 = pat.toNat :=
    (and_F00F_toNat w).symm.trans (congrArg BitVec.toNat h)
  rw [fieldOp_eq, fieldN_val]
  omega

variable {w : Word}

theorem decode_of_fieldOp_6 (hop : fieldOp w = 0x6) : decode w = .ok (.ldImm (fieldX w) (fieldKk w)) := by
  simp only [decode, hop]

theorem decode_of_fieldOp_7 (hop : fieldOp w = 0x7) : decode w = .ok (.addImm (fieldX w) (fieldKk w)) := by
  simp only [decode, hop]

theorem decode_of_fieldOp_8 (hop : fieldOp w = 0x8) : decode w = decodeFamily8 w := by simp only [decode, hop]

/-- A row of family 8 decodes as the family does a word with the row's field `n` (R77). -/
theorem decodesAs_family8 {pat : Word} {f : Word → Instr} (n : Nat) (hop : pat.toNat / 4096 = 0x8)
    (hn : pat.toNat % 16 = n) (hdec : ∀ w, (fieldN w).val = n → decodeFamily8 w = .ok (f w)) : DecodesAs 0xF00F pat f := by
  intro w hw
  obtain ⟨hopw, hnw⟩ := fieldOp_fieldN_eq_of_and_F00F hw
  exact (decode_of_fieldOp_8 (hopw.trans hop)).trans (hdec w (hnw.trans hn))

theorem decodeFamily8_of_fieldN_0 (hn : (fieldN w).val = 0x0) : decodeFamily8 w = .ok (.ldReg (fieldX w) (fieldY w)) := by
  simp only [decodeFamily8, hn]

theorem decodeFamily8_of_fieldN_1 (hn : (fieldN w).val = 0x1) : decodeFamily8 w = .ok (.orReg (fieldX w) (fieldY w)) := by
  simp only [decodeFamily8, hn]

theorem decodeFamily8_of_fieldN_2 (hn : (fieldN w).val = 0x2) : decodeFamily8 w = .ok (.andReg (fieldX w) (fieldY w)) := by
  simp only [decodeFamily8, hn]

theorem decodeFamily8_of_fieldN_3 (hn : (fieldN w).val = 0x3) : decodeFamily8 w = .ok (.xorReg (fieldX w) (fieldY w)) := by
  simp only [decodeFamily8, hn]

end Sys2Proof.Machine
end

section
/-! 42_registers_alu.md R141 to R146: the loads, ADD of a byte and the bitwise operations advance `PC` and write one register.
Each meaning is written as that one write, whose frame is everything else, VF included. -/

namespace Sys2Proof.Machine

/-! ### Advancing and writing one register -/

/-- The advance and one register write are within the frame of an instruction that may write that register. -/
theorem frame_advance_setReg (s : State) (x : RegIx) (b : Byte) : Frame s (s.advance.setReg x b) { regs := [x] } := by
  have others : ∀ r, r ∉ [x] → (s.advance.setReg x b).reg r = s.reg r := fun r hr =>
    State.reg_setReg_other (List.ne_of_not_mem_cons hr) b
  simpa [Frame] using others

/-- `trunc_8` keeps the low eight bits (R12). -/
theorem trunc8_toNat (n : Nat) : (trunc8 n).toNat = n % 256 := BitVec.toNat_ofNat n 8

/-! ### The meanings -/

variable (s : State)

theorem exec_ldImm (x : RegIx) (kk : Byte) : exec (.ldImm x kk) s = .next (s.advance.setReg x kk) := rfl

theorem exec_addImm (x : RegIx) (kk : Byte) :
    exec (.addImm x kk) s = .next (s.advance.setReg x (trunc8 (trueSum (s.reg x) kk))) := rfl

theorem exec_ldReg (x y : RegIx) : exec (.ldReg x y) s = .next (s.advance.setReg x (s.reg y)) := rfl

theorem exec_orReg (x y : RegIx) : exec (.orReg x y) s = .next (s.advance.setReg x (s.reg x ||| s.reg y)) := rfl

theorem exec_andReg (x y : RegIx) : exec (.andReg x y) s = .next (s.advance.setReg x (s.reg x &&& s.reg y)) := rfl

theorem exec_xorReg (x y : RegIx) : exec (.xorReg x y) s = .next (s.advance.setReg x (s.reg x ^^^ s.reg y)) := rfl

end Sys2Proof.Machine
end

section
/-! 42_registers_alu.md R141 to R146: the obligations of the loads, ADD of a byte and the bitwise operations. -/

namespace Sys2Proof.Machine

/-- Settles O32: family 8 with `n` 1, 2 or 3 is OR, AND or XOR, whose meaning writes `V[x]` alone with the bitwise result. -/
theorem bitwiseOperations : Obligations.BitwiseOperations := by
  refine ⟨decodesAs_family8 1 rfl rfl fun _ => decodeFamily8_of_fieldN_1,
    decodesAs_family8 2 rfl rfl fun _ => decodeFamily8_of_fieldN_2,
    decodesAs_family8 3 rfl rfl fun _ => decodeFamily8_of_fieldN_3, fun x y s =>
    ⟨⟨_, exec_orReg s x y, fun j _ => ?or, rfl, frame_advance_setReg s x _⟩,
      ⟨_, exec_andReg s x y, fun j _ => ?and, rfl, frame_advance_setReg s x _⟩,
      ⟨_, exec_xorReg s x y, fun j _ => ?xor, rfl, frame_advance_setReg s x _⟩⟩⟩
  case or => rw [State.reg_setReg_same, BitVec.getLsbD_or]
  case and => rw [State.reg_setReg_same, BitVec.getLsbD_and]
  case xor => rw [State.reg_setReg_same, BitVec.getLsbD_xor]

/-- Settles O31: family 6, and family 8 with `n = 0`, are the loads, whose meanings write `V[x]` alone with the operand. -/
theorem registerLoads : Obligations.RegisterLoads :=
  ⟨decodesAs_of_fieldOp 0x6 rfl fun _ => decode_of_fieldOp_6,
    decodesAs_family8 0 rfl rfl fun _ => decodeFamily8_of_fieldN_0,
    fun x kk s => ⟨_, exec_ldImm s x kk, State.reg_setReg_same _ x kk, rfl, frame_advance_setReg s x kk⟩,
    fun x y s => ⟨_, exec_ldReg s x y, State.reg_setReg_same _ x _, rfl, frame_advance_setReg s x _⟩⟩

/-- Settles O33: family 7 is ADD of a byte, whose meaning writes `V[x]` alone with the true sum truncated to eight bits. -/
theorem addImmediateWraps : Obligations.AddImmediateWraps := by
  refine ⟨decodesAs_of_fieldOp 0x7 rfl fun _ => decode_of_fieldOp_7, fun x kk s =>
    ⟨_, exec_addImm s x kk, ?sum, rfl, frame_advance_setReg s x _⟩⟩
  case sum => rw [State.reg_setReg_same, trunc8_toNat, trueSum]

end Sys2Proof.Machine
end

section
/-! 43_index_memory.md R170: LD I advances `PC` and writes `I` alone. -/

namespace Sys2Proof.Machine

/-- Family A is LD I (R74). -/
theorem decode_of_fieldOp_A {w : Word} (hop : fieldOp w = 0xA) : decode w = .ok (.ldI (fieldNnn w)) := by
  simp only [decode, hop]

/-- The advance and a write of `I` are within the frame of an instruction that may write `I`. -/
theorem frame_advance_setI (s : State) (a : Word) : Frame s (s.advance.setI a) { i := true } := by simp [Frame]

/-- The meaning of LD I (R170). -/
theorem exec_ldI (s : State) (nnn : Addr12) : exec (.ldI nnn) s = .next (s.advance.setI (zextNnn nnn)) := rfl

/-- Settles O39: family A is LD I, whose meaning writes `I` alone with the zero-extended address. -/
theorem ldISetsIndex : Obligations.LdISetsIndex :=
  ⟨decodesAs_of_fieldOp 0xA rfl fun _ => decode_of_fieldOp_A,
    fun nnn s => ⟨_, exec_ldI s nnn, zextNnn_toNat nnn, rfl, frame_advance_setI s _⟩⟩

end Sys2Proof.Machine
end

section
/-! Family F of the opcode table (R74, R79): the mask 0xF0FF fixes the family and the byte `kk`, by which the family is
decoded. -/

namespace Sys2Proof.Machine

/-- The bits under the mask 0xF0FF are the family and the byte `kk` (R72). -/
theorem fieldOp_fieldKk_eq_of_and_F0FF {w pat : Word} (h : w &&& 0xF0FF = pat) :
    fieldOp w = pat.toNat / 4096 ∧ (fieldKk w).toNat = pat.toNat % 256 := by
  have bits : w.toNat / 4096 * 4096 + w.toNat % 256 = pat.toNat :=
    (and_F0FF_toNat w).symm.trans (congrArg BitVec.toNat h)
  rw [fieldOp_eq, fieldKk_toNat]
  omega

variable {w : Word}

theorem decode_of_fieldOp_F (hop : fieldOp w = 0xF) : decode w = decodeFamilyF w := by simp only [decode, hop]

/-- A row of family F decodes as the family does a word with the row's byte `kk` (R79). -/
theorem decodesAs_familyF {pat : Word} {f : Word → Instr} (kk : Nat) (hop : pat.toNat / 4096 = 0xF)
    (hkk : pat.toNat % 256 = kk) (hdec : ∀ w, (fieldKk w).toNat = kk → decodeFamilyF w = .ok (f w)) :
    DecodesAs 0xF0FF pat f := by
  intro w hw
  obtain ⟨hopw, hkkw⟩ := fieldOp_fieldKk_eq_of_and_F0FF hw
  exact (decode_of_fieldOp_F (hopw.trans hop)).trans (hdec w (hkkw.trans hkk))

theorem decodeFamilyF_of_fieldKk_07 (hkk : (fieldKk w).toNat = 0x07) : decodeFamilyF w = .ok (.ldVxDt (fieldX w)) := by
  simp only [decodeFamilyF, hkk]

theorem decodeFamilyF_of_fieldKk_15 (hkk : (fieldKk w).toNat = 0x15) : decodeFamilyF w = .ok (.ldDtVx (fieldX w)) := by
  simp only [decodeFamilyF, hkk]

theorem decodeFamilyF_of_fieldKk_18 (hkk : (fieldKk w).toNat = 0x18) : decodeFamilyF w = .ok (.ldStVx (fieldX w)) := by
  simp only [decodeFamilyF, hkk]

end Sys2Proof.Machine
end

section
/-! 44_timers_keypad.md R192, R194, R195: the timer transfers advance `PC` and write one register or one timer. -/

namespace Sys2Proof.Machine

variable (s : State)

/-- The advance and a write of `DT` are within the frame of an instruction that may write `DT`. -/
theorem frame_advance_setDt (b : Byte) : Frame s (s.advance.setDt b) { dt := true } := by simp [Frame]

/-- The advance and a write of `ST` are within the frame of an instruction that may write `ST`. -/
theorem frame_advance_setSt (b : Byte) : Frame s (s.advance.setSt b) { st := true } := by simp [Frame]

/-- The meaning of Fx07 (R192). -/
theorem exec_ldVxDt (x : RegIx) : exec (.ldVxDt x) s = .next (s.advance.setReg x s.dt) := rfl

/-- The meaning of Fx15 (R194). -/
theorem exec_ldDtVx (x : RegIx) : exec (.ldDtVx x) s = .next (s.advance.setDt (s.reg x)) := rfl

/-- The meaning of Fx18 (R195). -/
theorem exec_ldStVx (x : RegIx) : exec (.ldStVx x) s = .next (s.advance.setSt (s.reg x)) := rfl

end Sys2Proof.Machine
end

section
/-! 44_timers_keypad.md R192, R194, R195: the obligation of the timer transfers. -/

namespace Sys2Proof.Machine

/-- Settles O46: family F with `kk` 07, 15 or 18 is a timer transfer, whose meaning writes `V[x]` alone with `DT`, or one
timer alone with `V[x]`. -/
theorem timerTransfers : Obligations.TimerTransfers :=
  ⟨decodesAs_familyF 0x07 rfl rfl fun _ => decodeFamilyF_of_fieldKk_07,
    decodesAs_familyF 0x15 rfl rfl fun _ => decodeFamilyF_of_fieldKk_15,
    decodesAs_familyF 0x18 rfl rfl fun _ => decodeFamilyF_of_fieldKk_18, fun x s =>
    ⟨⟨_, exec_ldVxDt s x, State.reg_setReg_same _ x s.dt, rfl, frame_advance_setReg s x s.dt⟩,
      ⟨_, exec_ldDtVx s x, State.setDt_dt _ _, rfl, frame_advance_setDt s (s.reg x)⟩,
      ⟨_, exec_ldStVx s x, State.setSt_st _ _, rfl, frame_advance_setSt s (s.reg x)⟩⟩⟩

end Sys2Proof.Machine
end

section
/-! 50_host_interface.md R214: `update_keypad` replaces the sixteen levels of a block that is not Halted. -/

namespace Sys2Proof.Machine

/-- A Halted block ignores the update (R219). -/
theorem State.updateKeypad_of_halted {s : State} (h : s.isHalted = true) (pressed : List Nat) :
    s.updateKeypad pressed = s := if_pos h

/-- Any other block takes the levels of the set, and nothing else changes (R214). -/
theorem State.updateKeypad_of_not_halted {s : State} (h : s.isHalted = false) (pressed : List Nat) :
    s.updateKeypad pressed = s.setKey (keyLevels pressed) := if_neg (Bool.eq_false_iff.1 h)

/-- With every key identifier in range the command is admitted and updates the block alone (R214, R218). -/
theorem Session.apply_updateKeypad (c : Session) {pressed : List Nat} (h : ∀ k ∈ pressed, k < 16) :
    c.apply (.updateKeypad pressed) = .next ({ c with block := c.block.updateKeypad pressed }, .nothing) := by
  have noneBad : pressed.find? (fun k => 16 ≤ k) = none := by simpa [List.find?_eq_none] using h
  simp only [Session.apply, Session.updateKeypad, noneBad]

/-- Settles O51: the admitted command updates the block alone, which is a write of the sixteen levels unless it is Halted. -/
theorem updateKeypadReplacesLevels : Obligations.UpdateKeypadReplacesLevels := by
  intro c pressed hkeys
  refine ⟨_, c.apply_updateKeypad hkeys, rfl, fun hh => State.updateKeypad_of_halted hh pressed, fun hr => ?replaced⟩
  case replaced =>
    dsimp only
    rw [State.updateKeypad_of_not_halted hr]
    refine ⟨fun k => ?level, rfl⟩
    case level =>
      rw [State.setKey_key, keyLevels_getElem, List.contains_eq_mem]

end Sys2Proof.Machine
end

section
/-! R72, R74 to R80: the fields of a format's word are the operands it was written from, so decoding undoes encoding. -/

namespace Sys2Proof

open Machine

/-! ### The fields of the word of a format (R72) -/

theorem fieldOp_encodeA (op : BitVec 4) (nnn : Addr12) : fieldOp (encodeA op nnn) = op.toNat := by
  have := nnn.isLt
  rw [fieldOp_eq, encodeA_toNat]; omega

theorem fieldNnn_encodeA (op : BitVec 4) (nnn : Addr12) : fieldNnn (encodeA op nnn) = nnn := by
  have := nnn.isLt
  apply BitVec.eq_of_toNat_eq
  rw [fieldNnn_toNat, encodeA_toNat]; omega

theorem fieldOp_encodeXK (op : BitVec 4) (x : RegIx) (kk : Byte) : fieldOp (encodeXK op x kk) = op.toNat := by
  have := kk.isLt
  rw [fieldOp_eq, encodeXK_toNat]; omega

theorem fieldX_encodeXK (op : BitVec 4) (x : RegIx) (kk : Byte) : fieldX (encodeXK op x kk) = x := by
  have := kk.isLt
  apply Fin.ext
  rw [fieldX_val, encodeXK_toNat]; omega

theorem fieldKk_encodeXK (op : BitVec 4) (x : RegIx) (kk : Byte) : fieldKk (encodeXK op x kk) = kk := by
  have := kk.isLt
  apply BitVec.eq_of_toNat_eq
  rw [fieldKk_toNat, encodeXK_toNat]; omega

/-- Format X is format XK with the sub-operation as its byte (R72). -/
theorem encodeX_eq (op : BitVec 4) (x : RegIx) (sub : Byte) : encodeX op x sub = encodeXK op x sub := rfl

variable (op : BitVec 4) (x y : RegIx) (sub : BitVec 4)

theorem fieldOp_encodeXY : fieldOp (encodeXY op x y sub) = op.toNat := by
  have := sub.isLt
  rw [fieldOp_eq, encodeXY_toNat]; omega

theorem fieldX_encodeXY : fieldX (encodeXY op x y sub) = x := by
  have := sub.isLt
  apply Fin.ext
  rw [fieldX_val, encodeXY_toNat]; omega

theorem fieldY_encodeXY : fieldY (encodeXY op x y sub) = y := by
  have := sub.isLt
  apply Fin.ext
  rw [fieldY_val, encodeXY_toNat]; omega

theorem fieldN_encodeXY : fieldN (encodeXY op x y sub) = sub.toFin := by
  have := sub.isLt
  apply Fin.ext
  rw [fieldN_val, encodeXY_toNat, show sub.toFin.val = sub.toNat from rfl]; omega

/-! ### Decoding the word of a format -/

/-- The word of a well-formed SYS is neither CLS nor RET (R76). -/
theorem decodeFamily0_encodeA {nnn : Addr12} (hwf : (Instr.sys nnn).wellFormed = true) :
    decodeFamily0 (encodeA 0x0 nnn) = .sys nnn := by
  obtain ⟨hcls, hret⟩ : nnn ≠ 0x0E0 ∧ nnn ≠ 0x0EE := by simpa [Instr.wellFormed] using hwf
  have ne : ∀ k : Addr12, nnn ≠ k → encodeA 0x0 nnn ≠ encodeA 0x0 k := fun k hk e => hk (encodeA_injective _ e)
  rw [decodeFamily0_of_ne (ne 0x0E0 hcls) (ne 0x0EE hret), fieldNnn_encodeA]

/-- Settles O1: the decoder reads the family, and in families 5, 8, 9, E and F one field more, and each is what the
encoder wrote; SYS alone needs its word to be neither CLS nor RET. -/
theorem decodeUndoesEncode : Obligations.DecodeUndoesEncode := by
  intro i hwf
  cases i
  case cls | ret => decide
  case sys nnn => rw [encode, decode_of_fieldOp_0 (fieldOp_encodeA 0x0 nnn), decodeFamily0_encodeA hwf]
  case jp nnn | call nnn | ldI nnn | jpV0 nnn => simp [encode, decode, fieldOp_encodeA, fieldNnn_encodeA]
  case seImm x kk | sneImm x kk | ldImm x kk | addImm x kk | rnd x kk =>
    simp [encode, decode, fieldOp_encodeXK, fieldX_encodeXK, fieldKk_encodeXK]
  case seReg x y | sneReg x y =>
    simp [encode, decode, decodeXY0, fieldOp_encodeXY, fieldX_encodeXY, fieldY_encodeXY, fieldN_encodeXY]
  case drw x y n =>
    simp [encode, decode, nibble, fieldOp_encodeXY, fieldX_encodeXY, fieldY_encodeXY, fieldN_encodeXY]
  case skp x | sknp x =>
    simp [encode, encodeX_eq, decode, decodeFamilyE, fieldOp_encodeXK, fieldX_encodeXK, fieldKk_encodeXK]
  case ldVxDt x | ldVxK x | ldDtVx x | ldStVx x | addI x | ldF x | ldB x | storeRegs x | loadRegs x =>
    simp [encode, encodeX_eq, decode, decodeFamilyF, fieldOp_encodeXK, fieldX_encodeXK, fieldKk_encodeXK]
  case ldReg x y | orReg x y | andReg x y | xorReg x y | addReg x y | subReg x y | shr x y | subn x y | shl x y =>
    simp [encode, decode, decodeFamily8, fieldOp_encodeXY, fieldX_encodeXY, fieldY_encodeXY, fieldN_encodeXY]

/-- Settles O2: what the decoder answers for a word is an instruction of that very word. -/
theorem encodeUndoesDecode : Obligations.EncodeUndoesDecode := by
  intro w i hdec
  have h := decode_answers w
  rwa [hdec] at h

/-- Settles O5: the two bytes make up the instruction's word again, which decodes to it. -/
theorem decodeBytesReadsTwoBytes : Obligations.DecodeBytesReadsTwoBytes := by
  intro i rest hwf
  simp [encodeBytes, decodeBytes, decodeUndoesEncode i hwf]

/-- Settles O6, each word by computation. -/
theorem decodedSampleWords : Obligations.DecodedSampleWords := by
  unfold Obligations.DecodedSampleWords
  decide

/-! ### The illegal words (R81) -/

theorem decodeXY0_error_iff (w : Word) (i : Instr) :
    decodeXY0 w i = .error (.illegalOpcode w) ↔ (fieldN w).val ≠ 0 := by
  by_cases hn : fieldN w = 0 <;> simp [decodeXY0, hn]

theorem decodeFamily8_error_iff (w : Word) :
    decodeFamily8 w = .error (.illegalOpcode w) ↔ (fieldN w).val ∈ [0x8, 0x9, 0xA, 0xB, 0xC, 0xD, 0xF] := by
  have := (fieldN w).isLt
  unfold decodeFamily8
  split
  case h_10 =>
    refine iff_of_true rfl ?_
    interval_cases (fieldN w).val <;> simp_all
  all_goals simp [*]

theorem decodeFamilyE_error_iff (w : Word) :
    decodeFamilyE w = .error (.illegalOpcode w) ↔ (fieldKk w).toNat ∉ [0x9E, 0xA1] := by
  unfold decodeFamilyE
  split <;> simp_all

theorem decodeFamilyF_error_iff (w : Word) :
    decodeFamilyF w = .error (.illegalOpcode w) ↔
      (fieldKk w).toNat ∉ [0x07, 0x0A, 0x15, 0x18, 0x1E, 0x29, 0x33, 0x55, 0x65] := by
  unfold decodeFamilyF
  split <;> simp_all

/-- Settles O4: family by family, a word is refused where the family's own decoder refuses it. -/
theorem illegalWordsByFamily : Obligations.IllegalWordsByFamily := by
  intro w
  rw [← fieldOp_eq, ← fieldN_val, ← fieldKk_toNat]
  unfold decode
  split
  case h_6 hop | h_10 hop => simp only [decodeXY0_error_iff, hop]; simp
  case h_9 hop => simp only [decodeFamily8_error_iff, hop]; simp
  case h_15 hop => simp only [decodeFamilyE_error_iff, hop]; simp
  case h_16 hop => simp only [decodeFamilyF_error_iff, hop]; simp
  case h_17 =>
    have : fieldOp w < 16 := (w.extractLsb' 12 4).isLt
    interval_cases fieldOp w <;> contradiction
  all_goals simp [*]

end Sys2Proof
end

section
/-! 35_execution_cycle.md R90 to R94: what a step does before an instruction is executed, and in the key-wait. -/

namespace Sys2Proof.Machine

/-! ### The step by what it fetches -/

section

variable {s : State} {w : Word}

theorem step_of_running (hrun : s.run = .running) : step s = executeStep s := by simp only [step, stepOnce, hrun]

theorem step_of_awaitingKey {x : RegIx} (hrun : s.run = .awaitingKey x) : step s = .next (s.waitStep x) := by
  simp only [step, stepOnce, hrun]

theorem step_of_halted {f : FaultRecord} (hrun : s.run = .halted f) : step s = .next s := by
  simp only [step, stepOnce, hrun]

theorem step_of_fetch_none (hrun : s.run = .running) (hfetch : s.fetch = none) :
    step s = .next (s.takeFault .fetchOutOfBounds none (.access s.pc 2 .fetch)) := by
  simp only [step_of_running hrun, executeStep, hfetch]

theorem step_of_decode_ok {i : Instr} (hrun : s.run = .running) (hfetch : s.fetch = some w) (hdec : decode w = .ok i) :
    step s = exec i s := by
  simp only [step_of_running hrun, executeStep, hfetch, hdec]

theorem step_of_decode_error {e : DecodeError} (hrun : s.run = .running) (hfetch : s.fetch = some w)
    (hdec : decode w = .error e) : step s = .next (s.takeFault .illegalOpcode (some w) .empty) := by
  simp only [step_of_running hrun, executeStep, hfetch, hdec, raiseFault]

/-- A fetch reads the big-endian word of the bytes at `PC` (R71, R92). -/
theorem State.fetch_eq_of_toNat (hpc : s.pc.toNat + 2 ≤ 4096)
    (hw : w.toNat = 256 * (s.mem.read s.pc.toNat).toNat + (s.mem.read (s.pc.toNat + 1)).toNat) : s.fetch = some w := by
  rw [State.fetch_some hpc, Option.some_inj]
  apply BitVec.eq_of_toNat_eq
  rw [wordOfBytes_toNat, hw, Nat.mul_comm]

/-- A word is decoded exactly when a row of the table applies to it (R75, R81). -/
theorem firstRow_eq_none_iff (w : Word) : firstRow w = none ↔ ∃ e, decode w = .error e := by
  have h := decodeFollowsOpcodeTable.1 w
  split at h
  case h_1 i hd => simp [h, hd]
  case h_2 e hd => simp [h.1, hd]

end

/-! ### The obligations of the fetch -/

/-- Settles O7: the two bytes at `PC` are the word the step fetches and decodes. -/
theorem stepRunsDecodedInstruction : Obligations.StepRunsDecodedInstruction :=
  fun _ _ _ hrun hpc hw hdec => step_of_decode_ok hrun (State.fetch_eq_of_toNat hpc hw) hdec

/-- Settles O8: outside memory there is nothing to fetch. -/
theorem fetchOutsideMemoryFaults : Obligations.FetchOutsideMemoryFaults :=
  fun _ hrun hpc => step_of_fetch_none hrun (State.fetch_none hpc)

/-- Settles O9: a word that no row matches is refused by the decoder. -/
theorem illegalWordFaults : Obligations.IllegalWordFaults := by
  intro s w hrun hfetch hrow
  obtain ⟨e, hdec⟩ := (firstRow_eq_none_iff w).1 hrow
  exact step_of_decode_error hrun hfetch hdec

/-! ### The wait step (R91) -/

theorem State.waitStep_of_none {s : State} (h : s.delivered = none) (x : RegIx) : s.waitStep x = s := by
  simp only [State.waitStep, h]

theorem State.waitStep_of_some {s : State} {k : KeyIx} (h : s.delivered = some k) (x : RegIx) :
    s.waitStep x = ((s.setReg x (BitVec.ofNat 8 k.val)).setDelivered none).setRun .running := by
  simp only [State.waitStep, h]

/-- A key identifier keeps its value as a byte (R91). -/
theorem keyByte_toNat (k : KeyIx) : (BitVec.ofNat 8 k.val).toNat = k.val := by
  rw [BitVec.toNat_ofNat]; omega

/-- Ending the wait writes `V[x]`, `Run` and `Delivered` and nothing else. -/
theorem frame_waitStep (s : State) (x : RegIx) (b : Byte) :
    Frame s (((s.setReg x b).setDelivered none).setRun .running) { regs := [x], control := true } := by
  have others : ∀ r, r ∉ [x] → (s.setReg x b).reg r = s.reg r := fun r hr =>
    State.reg_setReg_other (List.ne_of_not_mem_cons hr) b
  simpa [Frame] using others

/-- Settles O10: the two arms of the wait step. -/
theorem waitStepPolls : Obligations.WaitStepPolls := by
  intro s x hrun
  refine ⟨fun hnone => ?polls, fun k hk => ?ends⟩
  case polls => rw [step_of_awaitingKey hrun, State.waitStep_of_none hnone]
  case ends =>
    have hstep := (step_of_awaitingKey hrun).trans (congrArg _ (State.waitStep_of_some hk x))
    refine ⟨_, hstep, ?_, rfl, rfl, rfl, frame_waitStep s x _⟩
    rw [State.setRun_reg, State.setDelivered_reg, State.reg_setReg_same, keyByte_toNat]

/-! ### Placing a word (log entry 7) -/

/-- The word placed is the word the next step fetches. -/
theorem State.placeWord_fetch {s : State} (hm : s.mem.wf) (w : Word) : (s.placeWord w).fetch = some w := by
  obtain ⟨-, hpc, hmem⟩ := s.readyToFetch_spec
  have hpc' : (s.placeWord w).pc.toNat + 2 ≤ 4096 := hpc
  have read (j : Nat) (hj : j < 2) := Memory.read_writeBytes_inside (hmem ▸ hm) [highByte w, lowByte w]
    (a := s.readyToFetch.pc.toNat) hpc j hj
  have high : (s.placeWord w).mem.read (s.placeWord w).pc.toNat = highByte w := read 0 (by decide)
  have low : (s.placeWord w).mem.read ((s.placeWord w).pc.toNat + 1) = lowByte w := read 1 (by decide)
  rw [State.fetch_some hpc', high, low, wordOfBytes_bytes]

/-- What the decoder reads from a table word is what it reads from its two bytes as fetched (R71). -/
theorem decode_of_decodeTableWord {n w : Nat} {i : Instr} (h : decodeTableWord n w = some i) :
    decode (tableWord n w) = .ok i := by
  simp only [decodeTableWord, decodeBytes, wordOfBytes_bytes] at h
  cases hd : decode (tableWord n w) with
  | ok j => simpa [hd] using h
  | error e => simp [hd] at h

/-- Settles O16: the placed word is fetched by a Running block and decodes to the instruction. -/
theorem placedWordRunsNext : Obligations.PlacedWordRunsNext :=
  fun s w _ hm hdec => step_of_decode_ok s.readyToFetch_spec.1 (State.placeWord_fetch hm (tableWord 16 w))
    (decode_of_decodeTableWord hdec)

end Sys2Proof.Machine
end

section
/-! 41_control_flow.md R120, R121, R123, R126, R131: RET, CALL and JP V0. -/

namespace Sys2Proof.Machine

variable {s : State}

/-! ### The meanings -/

/-- Taking a fault halts with the record of its arguments and the address `PC` (R94, R232). -/
theorem haltsWith_takeFault (s : State) (cause : FaultCause) (opcode : Option Word) (info : FaultInfo) :
    HaltsWith (.next (s.takeFault cause opcode info)) s cause opcode info := rfl

theorem exec_ret_of_ne (h : s.sp.val ≠ 0) : exec .ret s = .next (s.pop.setPc s.top) := if_neg h

theorem exec_ret_of_eq (h : s.sp.val = 0) :
    exec .ret s = .next (s.takeFault .stackUnderflow (some (encode .ret)) .empty) := if_pos h

theorem exec_call_of_ne (h : s.sp.val ≠ 16) (nnn : Addr12) :
    exec (.call nnn) s = .next ((s.advance.push s.advance.pc).setPc (zextNnn nnn)) := if_neg h

theorem exec_call_of_eq (h : s.sp.val = 16) (nnn : Addr12) :
    exec (.call nnn) s = .next (s.takeFault .stackOverflow (some (encode (.call nnn))) .empty) := if_pos h

theorem exec_jpV0 (s : State) (nnn : Addr12) :
    exec (.jpV0 nnn) s = .next (s.setPc (zextNnn nnn + zextByte (s.reg 0))) := rfl

/-! ### The stack (R26, R120, R121) -/

theorem State.top_eq {j : Fin 16} (h : s.sp.val = j.val + 1) : s.top = s.stack[j.val] := by simp [State.top, h]

/-- A push writes the slot at `SP` and no other. -/
theorem State.push_stack_getElem (s : State) (w : Word) (j : Fin 16) :
    (s.push w).stack[j.val] = if j.val = s.sp.val then w else s.stack[j.val] := by
  simp only [State.push_stack, Vector.getElem_setIfInBounds, eq_comm]

/-- On a stack with room a push adds one entry. -/
theorem State.push_sp_of_lt (h : s.sp.val < 16) (w : Word) : (s.push w).sp.val = s.sp.val + 1 := by
  rw [State.push_sp_val]; omega

/-- A pop and a jump are within the frame of an instruction that may write the stack. -/
theorem frame_pop_setPc (s : State) (a : Word) : Frame s (s.pop.setPc a) { stack := true } := by simp [Frame]

/-- A push and a jump are within the frame of an instruction that may write the stack. -/
theorem frame_push_setPc (s : State) (w a : Word) : Frame s ((s.advance.push w).setPc a) { stack := true } := by
  simp [Frame]

/-- The sum of an address field and a byte never wraps (R131). -/
theorem zextNnn_add_zextByte_toNat (nnn : Addr12) (b : Byte) :
    (zextNnn nnn + zextByte b).toNat = nnn.toNat + b.toNat := by
  have := nnn.isLt
  have := b.isLt
  rw [BitVec.toNat_add, zextNnn_toNat, zextByte, BitVec.toNat_setWidth_of_le (by decide)]
  omega

/-! ### The obligations -/

/-- 0x00EE is RET, the second row of the table (R75, R123). -/
theorem decode_00EE : decode 0x00EE = .ok .ret := by decide

/-- Family 2 is CALL (R74). -/
theorem decode_of_fieldOp_2 {w : Word} (hop : fieldOp w = 0x2) : decode w = .ok (.call (fieldNnn w)) := by
  simp only [decode, hop]

/-- Settles O23: RET pops the slot below `SP`, or takes the fault when there is none. -/
theorem retPopsReturnAddress : Obligations.RetPopsReturnAddress := by
  refine ⟨decode_00EE, fun s j hsp => ?pops, fun s hsp => ?faults⟩
  case pops =>
    have hne : s.sp.val ≠ 0 := by omega
    have hsp' : (s.pop.setPc s.top).sp.val = j.val := by rw [State.setPc_sp, State.pop_sp_val]; omega
    exact ⟨_, exec_ret_of_ne hne, State.top_eq hsp, hsp', rfl, frame_pop_setPc s _⟩
  case faults =>
    rw [exec_ret_of_eq hsp]
    exact haltsWith_takeFault s _ _ _

/-- Settles O26: family 2 is CALL, which pushes the advanced `PC` and jumps, or takes the fault on a full stack. -/
theorem callPushesReturnAddress : Obligations.CallPushesReturnAddress := by
  refine ⟨decodesAs_of_fieldOp 0x2 rfl fun _ => decode_of_fieldOp_2, fun nnn s hsp => ?pushes, fun nnn s hsp =>
    ⟨encode (.call nnn), encodeA_toNat 0x2 nnn, ?faults⟩⟩
  case pushes =>
    exact ⟨_, exec_call_of_ne (Nat.ne_of_lt hsp) nnn, zextNnn_toNat nnn,
      State.push_sp_of_lt (s := s.advance) hsp s.advance.pc, State.push_stack_getElem s.advance _,
      frame_push_setPc s _ _⟩
  case faults =>
    rw [exec_call_of_eq hsp]
    exact haltsWith_takeFault s _ _ _

/-- Settles O29: the meaning sets `PC` to a sum that does not wrap. -/
theorem jpV0AddsV0 : Obligations.JpV0AddsV0 :=
  fun nnn s => ⟨_, exec_jpV0 s nnn, zextNnn_add_zextByte_toNat nnn _, frame_setPc s _⟩

end Sys2Proof.Machine
end

section
/-! 42_registers_alu.md R147 to R153: the instructions that write VF, each an advance and then `State.flagThen`; and
RND. -/

namespace Sys2Proof.Machine

/-! ### Flags and differences as numbers (R12, R140) -/

theorem bool2bit_toNat (c : Bool) : (bool2bit c).toNat = if c then 1 else 0 := by cases c <;> rfl

theorem carryFlag_toNat (a b : Byte) : (carryFlag a b).toNat = if 255 < a.toNat + b.toNat then 1 else 0 := by
  simp [carryFlag, bool2bit_toNat, trueSum]

theorem noBorrowFlag_toNat (a b : Byte) : (noBorrowFlag a b).toNat = if b.toNat ≤ a.toNat then 1 else 0 := by
  simp [noBorrowFlag, bool2bit_toNat]

theorem truncDiff_toNat (a b : Byte) : (truncDiff a b).toNat = (a.toNat + 256 - b.toNat) % 256 := by
  have := b.isLt
  rw [truncDiff, BitVec.toNat_ofInt]
  omega

theorem shiftedOutLow_toNat (a : Byte) : (shiftedOutLow a).toNat = a.toNat % 2 :=
  Nat.and_two_pow_sub_one_eq_mod a.toNat 1

theorem shiftedOutHigh_toNat (a : Byte) : (shiftedOutHigh a).toNat = a.toNat / 128 := by
  have := a.isLt
  have low : (shiftedOutHigh a).toNat = (a >>> 7).toNat % 2 := Nat.and_two_pow_sub_one_eq_mod _ 1
  rw [low, BitVec.toNat_ushiftRight, Nat.shiftRight_eq_div_pow]
  omega

theorem shiftRight_one_toNat (a : Byte) : (a >>> 1).toNat = a.toNat / 2 := by
  rw [BitVec.toNat_ushiftRight, Nat.shiftRight_eq_div_pow]

theorem shiftLeft_one_toNat (a : Byte) : (a <<< 1).toNat = a.toNat * 2 % 256 := by
  rw [BitVec.toNat_shiftLeft, Nat.shiftLeft_eq]

/-! ### The flag and then the result -/

variable (s : State)

/-- The advance, the flag and the result are within the frame of an instruction that may write `V[x]` and VF. -/
theorem frame_advance_flagThen (b : Byte) (x : RegIx) (g : State → Byte) :
    Frame s (s.advance.flagThen b x g) { regs := [x, vf] } := by
  have others : ∀ r, r ∉ [x, vf] → (s.advance.flagThen b x g).reg r = s.reg r := fun r hr => by
    simp only [List.mem_cons, List.not_mem_nil, or_false, not_or] at hr
    rw [State.reg_flagThen, if_neg hr.1, if_neg hr.2, State.advance_reg]
  simpa [Frame] using others

theorem State.reg_flagThen_result (b : Byte) (x : RegIx) (g : State → Byte) :
    (s.flagThen b x g).reg x = g (s.setReg vf b) := by
  rw [State.reg_flagThen, if_pos rfl]

theorem State.reg_flagThen_vf {x : RegIx} (hx : x ≠ vf) (b : Byte) (g : State → Byte) :
    (s.flagThen b x g).reg vf = b := by
  rw [State.reg_flagThen, if_neg hx.symm, if_pos rfl]

/-- An operand as the write of VF leaves it (R95, R153). -/
theorem reg_setReg_vf_toNat (x : RegIx) (b : Byte) :
    ((s.advance.setReg vf b).reg x).toNat = if x = vf then b.toNat else (s.reg x).toNat := by
  rw [State.reg_setReg, State.advance_reg, apply_ite BitVec.toNat]

/-! ### The meanings -/

variable (x y : RegIx)

theorem exec_addReg : exec (.addReg x y) s = .next (s.advance.flagThen (carryFlag (s.reg x) (s.reg y)) x
    fun _ => trunc8 (trueSum (s.reg x) (s.reg y))) := rfl

theorem exec_subReg : exec (.subReg x y) s = .next (s.advance.flagThen (noBorrowFlag (s.reg x) (s.reg y)) x
    fun t => truncDiff (t.reg x) (t.reg y)) := rfl

theorem exec_subn : exec (.subn x y) s = .next (s.advance.flagThen (noBorrowFlag (s.reg y) (s.reg x)) x
    fun t => truncDiff (t.reg y) (t.reg x)) := rfl

theorem exec_shr : exec (.shr x y) s =
    .next (s.advance.flagThen (shiftedOutLow (s.reg x)) x fun t => t.reg x >>> 1) := rfl

theorem exec_shl : exec (.shl x y) s =
    .next (s.advance.flagThen (shiftedOutHigh (s.reg x)) x fun t => t.reg x <<< 1) := rfl

theorem exec_rnd (kk : Byte) : exec (.rnd x kk) s = .next (s.advance.drawn.setReg x (s.randomByte &&& kk)) := rfl

/-- The draw and one register write are within the frame of an instruction that may draw and write that register. -/
theorem frame_drawn_setReg (b : Byte) : Frame s (s.advance.drawn.setReg x b) { regs := [x], draws := true } := by
  have others : ∀ r, r ∉ [x] → (s.advance.drawn.setReg x b).reg r = s.reg r := fun r hr =>
    State.reg_setReg_other (List.ne_of_not_mem_cons hr) b
  simpa [Frame] using others

end Sys2Proof.Machine
end

section
/-! 42_registers_alu.md R147 to R153: the obligations of the instructions that write VF, and of RND. -/

namespace Sys2Proof.Machine

/-- Settles O34: the sum was taken before VF is written, so that write changes no operand. -/
theorem addSetsCarry : Obligations.AddSetsCarry := by
  refine fun x y s => ⟨_, exec_addReg s x y, ?sum, fun hx => ?carry, rfl, frame_advance_flagThen s _ x _⟩
  case sum => rw [State.reg_flagThen_result, trunc8_toNat, trueSum]
  case carry => rw [State.reg_flagThen_vf _ hx, carryFlag_toNat]

/-- Settles O35: the operands of the difference are those the write of VF leaves. -/
theorem subSetsNoBorrow : Obligations.SubSetsNoBorrow := by
  rintro x y s f a b rfl rfl rfl
  refine ⟨_, exec_subReg s x y, ?diff, fun hx => ?flag, rfl, frame_advance_flagThen s _ x _⟩
  case diff =>
    simp only [State.reg_flagThen_result, truncDiff_toNat, reg_setReg_vf_toNat, noBorrowFlag_toNat]
  case flag => rw [State.reg_flagThen_vf _ hx, noBorrowFlag_toNat]

/-- Settles O36: as O35 with the operands exchanged. -/
theorem subnSetsNoBorrow : Obligations.SubnSetsNoBorrow := by
  rintro x y s f a b rfl rfl rfl
  refine ⟨_, exec_subn s x y, ?diff, fun hx => ?flag, rfl, frame_advance_flagThen s _ x _⟩
  case diff =>
    simp only [State.reg_flagThen_result, truncDiff_toNat, reg_setReg_vf_toNat, noBorrowFlag_toNat]
  case flag => rw [State.reg_flagThen_vf _ hx, noBorrowFlag_toNat]

/-- VF after the flag and then the result: the flag, or the result when that goes to VF too (R153). -/
theorem reg_vf_flagThen_toNat (s : State) (b : Byte) (x : RegIx) (g : State → Byte) :
    ((s.flagThen b x g).reg vf).toNat = if x = vf then (g (s.setReg vf b)).toNat else b.toNat := by
  rw [State.reg_flagThen, if_pos rfl, apply_ite BitVec.toNat]
  simp only [eq_comm]

/-- Settles O37: with `x` VF the shift is of the flag, a single bit; otherwise of `V[x]` itself. -/
theorem shiftsSetShiftedOutBit : Obligations.ShiftsSetShiftedOutBit := by
  refine fun x y s => ⟨⟨_, exec_shr s x y, ?lowVf, fun hx => ?low, rfl, frame_advance_flagThen s _ x _⟩,
    ⟨_, exec_shl s x y, ?highVf, fun hx => ?high, rfl, frame_advance_flagThen s _ x _⟩⟩
  case lowVf =>
    rw [reg_vf_flagThen_toNat, shiftRight_one_toNat, reg_setReg_vf_toNat, shiftedOutLow_toNat]
    split <;> omega
  case low => rw [State.reg_flagThen_result, shiftRight_one_toNat, reg_setReg_vf_toNat, if_neg hx]
  case highVf =>
    have := (s.reg x).isLt
    rw [reg_vf_flagThen_toNat, shiftLeft_one_toNat, reg_setReg_vf_toNat, shiftedOutHigh_toNat]
    split <;> omega
  case high => rw [State.reg_flagThen_result, shiftLeft_one_toNat, reg_setReg_vf_toNat, if_neg hx]

/-- Settles O38: the byte written is this draw's AND `kk`. -/
theorem rndMasksRandomByte : Obligations.RndMasksRandomByte := by
  intro x kk s
  have hreg : (s.advance.drawn.setReg x (s.randomByte &&& kk)).reg x = Config.randomByte s.draws &&& kk :=
    State.reg_setReg_same _ x _
  refine ⟨_, exec_rnd s x kk, hreg, fun j hj => ?masked, rfl, rfl, frame_drawn_setReg s x _⟩
  case masked => rw [hreg, BitVec.getLsbD_and, hj, Bool.and_false]

end Sys2Proof.Machine
end

section
/-! 43_index_memory.md R171 to R176 and 40_display.md R107: the instructions that use `I`. Each block access is its
effect when the block fits in memory, and else a fault. -/

namespace Sys2Proof.Machine

/-! ### Frames -/

variable (s : State)

/-- A block write is within the frame of a change that may store there. -/
theorem frame_setMem_writeBytes (a : Nat) (bs : List Byte) :
    Frame s (s.setMem (s.mem.writeBytes a bs)) { mem := some (a, bs.length) } := by
  have outside : ∀ a', (∀ p ∈ some (a, bs.length), ¬ (p.1 ≤ a' ∧ a' < p.1 + p.2)) →
      (s.mem.writeBytes a bs).read a' = s.mem.read a' :=
    fun a' ha => Memory.read_writeBytes_outside s.mem bs a a' (ha _ rfl)
  simpa [Frame] using outside

/-- The advance and a block write at `I` are within the frame of an instruction that may store there. -/
theorem frame_advance_writeBytes (bs : List Byte) :
    Frame s (s.advance.setMem (s.mem.writeBytes s.atI bs)) { mem := some (s.i.toNat, bs.length) } :=
  frame_setMem_writeBytes s s.atI bs

/-- The advance and a block write from V0 up are within the frame of an instruction that may write those registers. -/
theorem frame_advance_setRegs {bs : List Byte} {x : RegIx} (h : bs.length = x.val + 1) :
    Frame s (s.advance.setRegs bs) { regs := (List.finRange 16).filter (fun r => r.val ≤ x.val) } := by
  have others : ∀ r : RegIx, x < r → (s.advance.setRegs bs).reg r = s.reg r := fun r hr => by
    have hout : ¬ r.val < bs.length := by rw [h]; exact Nat.not_lt.2 hr
    rw [State.reg_setRegs, dif_neg hout, State.advance_reg]
  simpa [Frame] using others

/-- The advance, a new grid and the collision in VF are within the frame of an instruction that may write both. -/
theorem frame_advance_setFb_setReg (g : Grid) (b : Byte) :
    Frame s ((s.advance.setFb g).setReg vf b) { regs := [vf], fb := true } := by
  have others : ∀ r, r ∉ [vf] → ((s.advance.setFb g).setReg vf b).reg r = s.reg r := fun r hr =>
    State.reg_setReg_other (List.ne_of_not_mem_cons hr) b
  simpa [Frame] using others

/-! ### The meanings -/

theorem exec_addI (x : RegIx) :
    exec (.addI x) s = .next (s.advance.setI (trunc16 (s.i.toNat + (s.reg x).toNat))) := rfl

theorem exec_ldF (x : RegIx) : exec (.ldF x) s = .next (s.advance.setI (glyphAddr (s.reg x))) := rfl

variable {s}

theorem exec_ldB_of_le (h : s.i.toNat + 3 ≤ 4096) (x : RegIx) :
    exec (.ldB x) s = .next (s.advance.setMem (s.mem.writeBytes s.atI (bcdDigits (s.reg x)))) :=
  checkedAtI_ok h _ _ _

theorem exec_ldB_of_lt (h : 4096 < s.i.toNat + 3) (x : RegIx) :
    exec (.ldB x) s = .next (s.takeFault .dataOutOfBounds (some (encode (.ldB x))) (.access s.i 3 .write)) :=
  checkedAtI_fault h _ _ _

theorem exec_storeRegs_of_le {x : RegIx} (h : s.i.toNat + x.val + 1 ≤ 4096) :
    exec (.storeRegs x) s = .next (s.advance.setMem (s.mem.writeBytes s.atI (s.regsUpTo x))) :=
  checkedAtI_ok h _ _ _

theorem exec_storeRegs_of_lt {x : RegIx} (h : 4096 < s.i.toNat + x.val + 1) :
    exec (.storeRegs x) s =
      .next (s.takeFault .dataOutOfBounds (some (encode (.storeRegs x))) (.access s.i (x.val + 1) .write)) :=
  checkedAtI_fault h _ _ _

theorem exec_loadRegs_of_le {x : RegIx} (h : s.i.toNat + x.val + 1 ≤ 4096) :
    exec (.loadRegs x) s = .next (s.advance.setRegs (s.mem.readBytes s.atI (x.val + 1))) :=
  checkedAtI_ok h _ _ _

theorem exec_loadRegs_of_lt {x : RegIx} (h : 4096 < s.i.toNat + x.val + 1) :
    exec (.loadRegs x) s =
      .next (s.takeFault .dataOutOfBounds (some (encode (.loadRegs x))) (.access s.i (x.val + 1) .read)) :=
  checkedAtI_fault h _ _ _

theorem exec_drw_of_le {n : SpriteLen} (h : s.i.toNat + n.val ≤ 4096) (x y : RegIx) :
    exec (.drw x y n) s =
      .next ((s.advance.setFb (s.sprite x y n).1).setReg vf (bool2bit (s.sprite x y n).2)) :=
  checkedAtI_ok h _ _ _

theorem exec_drw_of_lt {n : SpriteLen} (h : 4096 < s.i.toNat + n.val) (x y : RegIx) :
    exec (.drw x y n) s =
      .next (s.takeFault .dataOutOfBounds (some (encode (.drw x y n))) (.access s.i n.val .read)) :=
  checkedAtI_fault h _ _ _

end Sys2Proof.Machine
end

section
/-! 43_index_memory.md R171 to R176, 20_memory.md R63 and 40_display.md R107: the obligations of the instructions that
use `I`. -/

namespace Sys2Proof.Machine

/-! ### The index register -/

theorem trunc16_toNat (n : Nat) : (trunc16 n).toNat = n % 65536 := BitVec.toNat_ofNat n 16

/-- Five times a byte fits in a word, so a glyph address never wraps (R172). -/
theorem glyphAddr_toNat (b : Byte) : (glyphAddr b).toNat = 5 * b.toNat := by
  have := b.isLt
  rw [glyphAddr, trunc16_toNat, Config.fontGlyphBytes]
  omega

/-- Settles O40: both meanings write `I` alone. -/
theorem indexArithmetic : Obligations.IndexArithmetic :=
  fun x s => ⟨⟨_, exec_addI s x, trunc16_toNat _, rfl, frame_advance_setI s _⟩,
    ⟨_, exec_ldF s x, glyphAddr_toNat _, rfl, frame_advance_setI s _⟩⟩

/-! ### Decimal digits (R173) -/

/-- A word of format X is its row's `match` and the register in the second nibble (R72, R75). -/
theorem encodeX_toNat_eq_add {op : BitVec 4} {sub : Byte} {pat : Nat} (hpat : op.toNat * 4096 + sub.toNat = pat)
    (x : RegIx) : (encodeX op x sub).toNat = pat + 256 * x.val := by
  rw [encodeX_toNat, ← hpat, Nat.add_right_comm, Nat.mul_comm 256]

theorem decodeFamilyF_of_fieldKk_33 {w : Word} (hkk : (fieldKk w).toNat = 0x33) :
    decodeFamilyF w = .ok (.ldB (fieldX w)) := by
  simp only [decodeFamilyF, hkk]

/-- Each digit of a byte fits in a byte. -/
theorem bcdDigits_toNat (b : Byte) :
    (bcdDigits b).map BitVec.toNat = [b.toNat / 100, b.toNat / 10 % 10, b.toNat % 10] := by
  have := b.isLt
  simp only [bcdDigits, List.map_cons, List.map_nil, trunc8_toNat, List.cons.injEq, and_true]
  omega

/-- The bytes of the digits as they stand in memory after they were written at `a`. -/
theorem read_writeBytes_bcdDigits {m : Memory} (hm : m.wf) {a : Nat} (ha : a + 3 ≤ 4096) (b : Byte) (j : Nat)
    (hj : j < 3) : ((m.writeBytes a (bcdDigits b)).read (a + j)).toNat =
      [b.toNat / 100, b.toNat / 10 % 10, b.toNat % 10][j] := by
  rw [Memory.read_writeBytes_inside hm (bcdDigits b) ha j hj]
  simp only [← bcdDigits_toNat, List.getElem_map]
  rfl

/-- Settles O41: Fx33 is LD B, whose meaning stores the three digits at `I` when they fit. -/
theorem bcdStoresDigits : Obligations.BcdStoresDigits := by
  refine ⟨decodesAs_familyF 0x33 rfl rfl fun _ => decodeFamilyF_of_fieldKk_33, fun x s hm hfit => ?stores,
    fun x s hout => ⟨encode (.ldB x), ?word, ?faults⟩⟩
  case stores =>
    have digit := read_writeBytes_bcdDigits hm hfit (s.reg x)
    exact ⟨_, exec_ldB_of_le hfit x, digit 0 (by decide), digit 1 (by decide), digit 2 (by decide), rfl,
      frame_advance_writeBytes s (bcdDigits (s.reg x))⟩
  case word => exact encodeX_toNat_eq_add rfl x
  case faults =>
    rw [exec_ldB_of_lt hout]
    exact haltsWith_takeFault s _ _ _

/-! ### Register blocks (R174, R175) -/

/-- What stands in memory after V0 to V[x] were stored at `I`. -/
theorem read_writeBytes_regsUpTo {s : State} {x : RegIx} (hm : s.mem.wf) (hfit : s.i.toNat + x.val + 1 ≤ 4096)
    {j : RegIx} (hj : j ≤ x) : (s.mem.writeBytes s.atI (s.regsUpTo x)).read (s.i.toNat + j.val) = s.reg j := by
  have hlen : (s.regsUpTo x).length = x.val + 1 := s.regsUpTo_length x
  have hin : s.atI + (s.regsUpTo x).length ≤ Config.memSize := by rw [hlen]; exact hfit
  have hj' : j.val < (s.regsUpTo x).length := by rw [hlen]; exact Nat.lt_succ_of_le hj
  rw [← State.atI, Memory.read_writeBytes_inside hm _ hin j.val hj', State.regsUpTo_getElem]

/-- Settles O42: the meaning stores the list of the registers up to `x` at `I` when it fits. -/
theorem storeRegsWritesBlock : Obligations.StoreRegsWritesBlock := by
  refine ⟨fun x s hm hfit => ?stores, fun x s hout => ⟨encode (.storeRegs x), ?word, ?faults⟩⟩
  case stores =>
    refine ⟨_, exec_storeRegs_of_le hfit, fun j hj => read_writeBytes_regsUpTo hm hfit hj, rfl, ?_⟩
    simpa using frame_advance_writeBytes s (s.regsUpTo x)
  case word => exact encodeX_toNat_eq_add rfl x
  case faults =>
    rw [exec_storeRegs_of_lt hout]
    exact haltsWith_takeFault s _ _ _

/-- What V[j] holds after V0 to V[x] were loaded from `I`. -/
theorem reg_setRegs_readBytes (s : State) {x j : RegIx} (hj : j ≤ x) :
    (s.advance.setRegs (s.mem.readBytes s.atI (x.val + 1))).reg j = s.mem.read (s.i.toNat + j.val) := by
  have hj' : j.val < (s.mem.readBytes s.atI (x.val + 1)).length := by
    rw [Memory.readBytes_length]; exact Nat.lt_succ_of_le hj
  rw [State.reg_setRegs, dif_pos hj', Memory.readBytes_getElem, State.atI]

/-- Settles O43: the meaning writes the bytes from `I` on to the registers from V0 up when they fit. -/
theorem loadRegsReadsBlock : Obligations.LoadRegsReadsBlock := by
  refine ⟨fun x s hfit => ?loads, fun x s hout => ⟨encode (.loadRegs x), ?word, ?faults⟩⟩
  case loads =>
    exact ⟨_, exec_loadRegs_of_le hfit, fun j hj => reg_setRegs_readBytes s hj, rfl,
      frame_advance_setRegs s (Memory.readBytes_length _ _ _)⟩
  case word => exact encodeX_toNat_eq_add rfl x
  case faults =>
    rw [exec_loadRegs_of_lt hout]
    exact haltsWith_takeFault s _ _ _

/-- After the store the next fetch reads two registers of the block just written, when it covers both bytes (R63). -/
theorem fetch_of_storeRegs {s : State} {x hi lo : RegIx} (hm : s.mem.wf) (hfit : s.i.toNat + x.val + 1 ≤ 4096)
    (hhi : s.i.toNat + hi.val = s.pc.toNat + 2) (hlo : lo.val = hi.val + 1) (hx : lo ≤ x) :
    (s.advance.setMem (s.mem.writeBytes s.atI (s.regsUpTo x))).fetch = some (wordOfBytes (s.reg hi) (s.reg lo)) := by
  have hlox : lo.val ≤ x.val := hx
  have hix : hi ≤ x := Fin.le_def.2 (by omega)
  have hpc : (s.pc + 2).toNat = s.i.toNat + hi.val := by
    rw [BitVec.toNat_add, show (2 : Word).toNat = 2 from rfl]; omega
  rw [State.fetch_some (by rw [State.setMem_pc, State.advance_pc, hpc]; omega), State.setMem_mem, State.setMem_pc,
    State.advance_pc, hpc, Nat.add_assoc, ← hlo, read_writeBytes_regsUpTo hm hfit hix,
    read_writeBytes_regsUpTo hm hfit hx]

/-- Settles O44: the two bytes the next fetch reads are `V[h]` and `V[h + 1]` with `h` the distance from `I` to the next
word. -/
theorem storeIsSeenByNextFetch : Obligations.StoreIsSeenByNextFetch := by
  intro x s hm hlow hhigh hfit
  have hx := x.isLt
  obtain ⟨h, hh⟩ := Nat.exists_eq_add_of_le hlow
  have hlo : (⟨h + 1, by omega⟩ : RegIx) ≤ x := Fin.le_def.2 (show h + 1 ≤ x.val by omega)
  refine ⟨_, _, ⟨h, by omega⟩, ⟨h + 1, by omega⟩, exec_storeRegs_of_le hfit,
    fetch_of_storeRegs (hi := ⟨h, by omega⟩) hm hfit hh.symm rfl hlo, hh.symm, rfl, ?_⟩
  rw [wordOfBytes_toNat, Nat.mul_comm]

/-! ### Dxyn (R107) -/

/-- Settles O21: the meaning draws the bytes read from `I` at the coordinates that the registers hold before VF is
written. -/
theorem drwDrawsSprite : Obligations.DrwDrawsSprite := by
  intro x y n s hfit
  have bytes : ∀ j : Fin 16, j < n → (s.mem.readBytes s.atI n.val)[j.val]? = some (s.mem.read (s.i.toNat + j.val)) :=
    fun j hj => by
      have hj' : j.val < (s.mem.readBytes s.atI n.val).length := by rw [Memory.readBytes_length]; exact hj
      rw [List.getElem?_eq_getElem hj', Memory.readBytes_getElem, State.atI]
  refine ⟨_, _, exec_drw_of_le hfit x y, Memory.readBytes_length s.mem s.atI n.val, bytes, rfl, ?hit, rfl,
    frame_advance_setFb_setReg s _ _⟩
  case hit => rw [State.reg_setReg_same, bool2bit_toNat]; rfl

/-- Settles O22: a sprite that does not fit takes the fault before anything is drawn. -/
theorem drwOutsideMemoryFaults : Obligations.DrwOutsideMemoryFaults := by
  refine fun x y n s hout => ⟨encode (.drw x y n), ?word, ?faults⟩
  case word =>
    rw [encode, encodeXY_toNat, nibble_toNat, show (0xD : BitVec 4).toNat = 0xD from rfl]
    omega
  case faults =>
    rw [exec_drw_of_lt hout]
    exact haltsWith_takeFault s _ _ _

end Sys2Proof.Machine
end

section
/-! 44_timers_keypad.md R190, R191, R193: the key skips and the entry of the key-wait. -/

namespace Sys2Proof.Machine

variable {s : State} {x : RegIx}

/-! ### The meanings -/

/-- The key check with an existing key answers the effect of its level (R190). -/
theorem checkedKey_of_lt (h : (s.reg x).toNat < 16) (w : Word) (done : Bool → State) :
    checkedKey s w x done = .next (done s.key[(s.reg x).toNat]) := by
  simp only [checkedKey, State.keyLevel_some h]

/-- The key check above 0x0F takes the fault (R190). -/
theorem checkedKey_of_le (h : 16 ≤ (s.reg x).toNat) (w : Word) (done : Bool → State) :
    checkedKey s w x done = .next (s.takeFault .keyIndexOutOfRange (some w) (.keyIndex (s.reg x))) := by
  simp only [checkedKey, State.keyLevel_none h, raiseFault]

theorem exec_skp_of_lt (h : (s.reg x).toNat < 16) :
    exec (.skp x) s = .next (s.setPc (if s.key[(s.reg x).toNat] then s.pc + 4 else s.pc + 2)) :=
  (checkedKey_of_lt h _ _).trans (congrArg _ (s.advance_skipIf _))

theorem exec_sknp_of_lt (h : (s.reg x).toNat < 16) :
    exec (.sknp x) s = .next (s.setPc (if s.key[(s.reg x).toNat] then s.pc + 2 else s.pc + 4)) := by
  refine (checkedKey_of_lt h _ _).trans (congrArg _ ((s.advance_skipIf _).trans ?_))
  cases s.key[(s.reg x).toNat] <;> rfl

theorem exec_skp_of_le (h : 16 ≤ (s.reg x).toNat) : exec (.skp x) s =
    .next (s.takeFault .keyIndexOutOfRange (some (encode (.skp x))) (.keyIndex (s.reg x))) :=
  checkedKey_of_le h _ _

theorem exec_sknp_of_le (h : 16 ≤ (s.reg x).toNat) : exec (.sknp x) s =
    .next (s.takeFault .keyIndexOutOfRange (some (encode (.sknp x))) (.keyIndex (s.reg x))) :=
  checkedKey_of_le h _ _

theorem exec_ldVxK (s : State) (x : RegIx) :
    exec (.ldVxK x) s = .next ((s.advance.setRun (.awaitingKey x)).setDelivered none) := rfl

/-- The advance, the run state and `Delivered` are within the frame of an instruction that may write the two. -/
theorem frame_advance_setRun_setDelivered (s : State) (r : RunState) (d : Option KeyIx) :
    Frame s ((s.advance.setRun r).setDelivered d) { control := true } := by
  simp [Frame]

/-! ### The obligations -/

/-- Settles O45: a key identifier in range skips by its level, and one above takes the fault. -/
theorem keySkips : Obligations.KeySkips := by
  refine ⟨fun x s k hk => ?skips, fun x s hout =>
    ⟨⟨encode (.skp x), ?wordSkp, ?faultsSkp⟩, ⟨encode (.sknp x), ?wordSknp, ?faultsSknp⟩⟩⟩
  case skips =>
    have hlt : (s.reg x).toNat < 16 := hk ▸ k.isLt
    simp only [← hk]
    exact ⟨⟨_, exec_skp_of_lt hlt, rfl, frame_setPc s _⟩, ⟨_, exec_sknp_of_lt hlt, rfl, frame_setPc s _⟩⟩
  case wordSkp | wordSknp => exact encodeX_toNat_eq_add rfl x
  case faultsSkp =>
    rw [exec_skp_of_le hout]
    exact haltsWith_takeFault s _ _ _
  case faultsSknp =>
    rw [exec_sknp_of_le hout]
    exact haltsWith_takeFault s _ _ _

/-- Settles O47: the meaning writes `Run` and `Delivered` alone. -/
theorem ldKEntersWait : Obligations.LdKEntersWait :=
  fun x s => ⟨_, exec_ldVxK s x, rfl, rfl, rfl, frame_advance_setRun_setDelivered s _ _⟩

end Sys2Proof.Machine
end

section
/-! What executing an instruction can do, said once: it takes one of the faults of 60_exceptions.md R230, or it completes
and leaves a state of one of a few shapes. -/

namespace Sys2Proof.Machine

/-! ### Taking a fault -/

/-- From `s` the instruction faults, with the cause and info recorded (R230). -/
inductive Faults (s : State) : Instr → FaultCause → FaultInfo → Prop where
  | ret (h : s.sp.val = 0) : Faults s .ret .stackUnderflow .empty
  | call (nnn : Addr12) (h : s.sp.val = 16) : Faults s (.call nnn) .stackOverflow .empty
  | drw (x y : RegIx) (n : SpriteLen) (h : 4096 < s.i.toNat + n.val) :
      Faults s (.drw x y n) .dataOutOfBounds (.access s.i n.val .read)
  | ldB (x : RegIx) (h : 4096 < s.i.toNat + 3) : Faults s (.ldB x) .dataOutOfBounds (.access s.i 3 .write)
  | storeRegs (x : RegIx) (h : 4096 < s.i.toNat + x.val + 1) :
      Faults s (.storeRegs x) .dataOutOfBounds (.access s.i (x.val + 1) .write)
  | loadRegs (x : RegIx) (h : 4096 < s.i.toNat + x.val + 1) :
      Faults s (.loadRegs x) .dataOutOfBounds (.access s.i (x.val + 1) .read)
  | skp (x : RegIx) (h : 16 ≤ (s.reg x).toNat) : Faults s (.skp x) .keyIndexOutOfRange (.keyIndex (s.reg x))
  | sknp (x : RegIx) (h : 16 ≤ (s.reg x).toNat) : Faults s (.sknp x) .keyIndexOutOfRange (.keyIndex (s.reg x))

/-! ### Completing -/

/-- Where an instruction that leaves the stack alone may set `PC`: past itself, past the next word, or to an address that
it names, with V0 added at most (R24, R97, R98). -/
def PcTarget (s : State) (a : Word) : Prop := a = s.pc + 2 ∨ a = s.pc + 4 ∨ a.toNat ≤ 0x10FE

/-- The instruction completes from `s` in the second state: one constructor for each shape of that state, which holds
for the instructions that `touched` gives the same frame. -/
inductive Completes (s : State) : Instr → State → Prop where
  | setPc {i : Instr} {a : Word} (ht : touched s i = {}) (ha : PcTarget s a) : Completes s i (s.setPc a)
  | setReg {i : Instr} (x : RegIx) (b : Byte) (ht : touched s i = { regs := [x] }) :
      Completes s i (s.advance.setReg x b)
  | flagThen {i : Instr} (b : Byte) (x : RegIx) (g : State → Byte) (ht : touched s i = { regs := [x, vf] }) :
      Completes s i (s.advance.flagThen b x g)
  | setI {i : Instr} (a : Word) (ht : touched s i = { i := true }) : Completes s i (s.advance.setI a)
  | writeBytes {i : Instr} (bs : List Byte) (ht : touched s i = { mem := some (s.i.toNat, bs.length) })
      (hfit : s.i.toNat + bs.length ≤ 4096) : Completes s i (s.advance.setMem (s.mem.writeBytes s.atI bs))
  | setRegs (x : RegIx) (bs : List Byte) (hlen : bs.length = x.val + 1) :
      Completes s (.loadRegs x) (s.advance.setRegs bs)
  | rnd (x : RegIx) (kk b : Byte) : Completes s (.rnd x kk) (s.advance.drawn.setReg x b)
  | cls (g : Grid) : Completes s .cls (s.advance.setFb g)
  | drw (x y : RegIx) (n : SpriteLen) (g : Grid) (b : Byte) :
      Completes s (.drw x y n) ((s.advance.setFb g).setReg vf b)
  | ldDtVx (x : RegIx) (b : Byte) : Completes s (.ldDtVx x) (s.advance.setDt b)
  | ldStVx (x : RegIx) (b : Byte) : Completes s (.ldStVx x) (s.advance.setSt b)
  | ldVxK (x : RegIx) : Completes s (.ldVxK x) ((s.advance.setRun (.awaitingKey x)).setDelivered none)
  | ret (h : s.sp.val ≠ 0) : Completes s .ret (s.pop.setPc s.top)
  | call (nnn : Addr12) (h : s.sp.val ≠ 16) :
      Completes s (.call nnn) ((s.advance.push s.advance.pc).setPc (zextNnn nnn))

/-- A skip sets `PC` past the instruction or past the next word (R98). -/
theorem PcTarget.ite (s : State) (c : Prop) [Decidable c] : PcTarget s (if c then s.pc + 4 else s.pc + 2) := by
  split
  · exact .inr (.inl rfl)
  · exact .inl rfl

/-- A skip the other way round. -/
theorem PcTarget.ite_not (s : State) (c : Prop) [Decidable c] : PcTarget s (if c then s.pc + 2 else s.pc + 4) := by
  split
  · exact .inl rfl
  · exact .inr (.inl rfl)

/-- A named address is a target. -/
theorem PcTarget.zextNnn (s : State) (nnn : Addr12) : PcTarget s (zextNnn nnn) := by
  have := nnn.isLt
  exact .inr (.inr (by rw [zextNnn_toNat]; omega))

/-- A named address with a byte added is a target: at most 0xFFF + 0xFF. -/
theorem PcTarget.zextNnn_add (s : State) (nnn : Addr12) (b : Byte) :
    PcTarget s (Machine.zextNnn nnn + zextByte b) := by
  have := nnn.isLt
  have := b.isLt
  exact .inr (.inr (by rw [zextNnn_add_zextByte_toNat]; omega))

/-! ### Everything `exec` can do -/

/-- What `exec` answers for `i` from `s`: a next state, by a fault that records the instruction's word or by
completing. -/
def Executes (s : State) (i : Instr) : Prop :=
  ∃ t, exec i s = .next t ∧
    ((∃ cause info, Faults s i cause info ∧ t = s.takeFault cause (some (encode i)) info) ∨ Completes s i t)

variable {s t : State} {i : Instr}

theorem Executes.of_completes (h : exec i s = .next t) (hc : Completes s i t) : Executes s i := ⟨t, h, .inr hc⟩

theorem Executes.of_faults {cause : FaultCause} {info : FaultInfo}
    (h : exec i s = .next (s.takeFault cause (some (encode i)) info)) (hf : Faults s i cause info) : Executes s i :=
  ⟨_, h, .inl ⟨cause, info, hf, rfl⟩⟩

/-- Every instruction executes so from every state. -/
theorem exec_executes (s : State) (i : Instr) : Executes s i := by
  cases i
  case cls => exact .of_completes (exec_cls s) (.cls _)
  case ret =>
    by_cases h : s.sp.val = 0
    · exact .of_faults (exec_ret_of_eq h) (.ret h)
    · exact .of_completes (exec_ret_of_ne h) (.ret h)
  case call nnn =>
    by_cases h : s.sp.val = 16
    · exact .of_faults (exec_call_of_eq h nnn) (.call nnn h)
    · exact .of_completes (exec_call_of_ne h nnn) (.call nnn h)
  case sys nnn => exact .of_completes (exec_sys s nnn) (.setPc rfl (.inl rfl))
  case jp nnn => exact .of_completes (exec_jp s nnn) (.setPc rfl (.zextNnn s nnn))
  case jpV0 nnn => exact .of_completes (exec_jpV0 s nnn) (.setPc rfl (.zextNnn_add s nnn _))
  case seImm x kk => exact .of_completes (exec_seImm s x kk) (.setPc rfl (.ite s _))
  case sneImm x kk => exact .of_completes (exec_sneImm s x kk) (.setPc rfl (.ite_not s _))
  case seReg x y => exact .of_completes (exec_seReg s x y) (.setPc rfl (.ite s _))
  case sneReg x y => exact .of_completes (exec_sneReg s x y) (.setPc rfl (.ite_not s _))
  case skp x =>
    by_cases h : (s.reg x).toNat < 16
    · exact .of_completes (exec_skp_of_lt h) (.setPc rfl (.ite s _))
    · exact .of_faults (exec_skp_of_le (Nat.le_of_not_lt h)) (.skp x (Nat.le_of_not_lt h))
  case sknp x =>
    by_cases h : (s.reg x).toNat < 16
    · exact .of_completes (exec_sknp_of_lt h) (.setPc rfl (.ite_not s _))
    · exact .of_faults (exec_sknp_of_le (Nat.le_of_not_lt h)) (.sknp x (Nat.le_of_not_lt h))
  case ldImm x kk => exact .of_completes (exec_ldImm s x kk) (.setReg x _ rfl)
  case addImm x kk => exact .of_completes (exec_addImm s x kk) (.setReg x _ rfl)
  case ldReg x y => exact .of_completes (exec_ldReg s x y) (.setReg x _ rfl)
  case orReg x y => exact .of_completes (exec_orReg s x y) (.setReg x _ rfl)
  case andReg x y => exact .of_completes (exec_andReg s x y) (.setReg x _ rfl)
  case xorReg x y => exact .of_completes (exec_xorReg s x y) (.setReg x _ rfl)
  case ldVxDt x => exact .of_completes (exec_ldVxDt s x) (.setReg x _ rfl)
  case addReg x y => exact .of_completes (exec_addReg s x y) (.flagThen _ x _ rfl)
  case subReg x y => exact .of_completes (exec_subReg s x y) (.flagThen _ x _ rfl)
  case subn x y => exact .of_completes (exec_subn s x y) (.flagThen _ x _ rfl)
  case shr x y => exact .of_completes (exec_shr s x y) (.flagThen _ x _ rfl)
  case shl x y => exact .of_completes (exec_shl s x y) (.flagThen _ x _ rfl)
  case rnd x kk => exact .of_completes (exec_rnd s x kk) (.rnd x kk _)
  case ldI nnn => exact .of_completes (exec_ldI s nnn) (.setI _ rfl)
  case addI x => exact .of_completes (exec_addI s x) (.setI _ rfl)
  case ldF x => exact .of_completes (exec_ldF s x) (.setI _ rfl)
  case drw x y n =>
    by_cases h : s.i.toNat + n.val ≤ 4096
    · exact .of_completes (exec_drw_of_le h x y) (.drw x y n _ _)
    · exact .of_faults (exec_drw_of_lt (Nat.lt_of_not_le h) x y) (.drw x y n (Nat.lt_of_not_le h))
  case ldB x =>
    by_cases h : s.i.toNat + 3 ≤ 4096
    · exact .of_completes (exec_ldB_of_le h x) (.writeBytes _ rfl h)
    · exact .of_faults (exec_ldB_of_lt (Nat.lt_of_not_le h) x) (.ldB x (Nat.lt_of_not_le h))
  case storeRegs x =>
    by_cases h : s.i.toNat + x.val + 1 ≤ 4096
    · have hlen : (s.regsUpTo x).length = x.val + 1 := s.regsUpTo_length x
      exact .of_completes (exec_storeRegs_of_le h) (.writeBytes _ (by rw [hlen]; rfl) (by rw [hlen]; exact h))
    · exact .of_faults (exec_storeRegs_of_lt (Nat.lt_of_not_le h)) (.storeRegs x (Nat.lt_of_not_le h))
  case loadRegs x =>
    by_cases h : s.i.toNat + x.val + 1 ≤ 4096
    · exact .of_completes (exec_loadRegs_of_le h) (.setRegs x _ (Memory.readBytes_length _ _ _))
    · exact .of_faults (exec_loadRegs_of_lt (Nat.lt_of_not_le h)) (.loadRegs x (Nat.lt_of_not_le h))
  case ldDtVx x => exact .of_completes (exec_ldDtVx s x) (.ldDtVx x _)
  case ldStVx x => exact .of_completes (exec_ldStVx s x) (.ldStVx x _)
  case ldVxK x => exact .of_completes (exec_ldVxK s x) (.ldVxK x)

/-- Everything `exec` can do when it answers a next state. -/
theorem exec_cases (h : exec i s = .next t) :
    (∃ cause info, Faults s i cause info ∧ t = s.takeFault cause (some (encode i)) info) ∨ Completes s i t := by
  obtain ⟨u, hu, hcases⟩ := exec_executes s i
  rw [h, Host.Outcome.next.injEq] at hu
  rwa [hu]

/-! ### What completing leaves -/

/-- An instruction that completes keeps its frame. -/
theorem Completes.frame (h : Completes s i t) : Frame s t (touched s i) := by
  cases h
  case setPc ht => exact ht ▸ frame_setPc s _
  case setReg ht => exact ht ▸ frame_advance_setReg s _ _
  case flagThen ht => exact ht ▸ frame_advance_flagThen s _ _ _
  case setI ht => exact ht ▸ frame_advance_setI s _
  case writeBytes ht => exact ht ▸ frame_advance_writeBytes s _
  case setRegs hlen => exact frame_advance_setRegs s hlen
  case rnd => exact frame_drawn_setReg s _ _
  case cls => exact frame_advance_setFb s _
  case drw => exact frame_advance_setFb_setReg s _ _
  case ldDtVx => exact frame_advance_setDt s _
  case ldStVx => exact frame_advance_setSt s _
  case ldVxK => exact frame_advance_setRun_setDelivered s _ _
  case ret => exact frame_pop_setPc s _
  case call => exact frame_push_setPc s _ _

/-- Only 00EE and 2nnn change the stack. -/
theorem touched_stack (s : State) (i : Instr) : i = .ret ∨ (∃ nnn, i = .call nnn) ∨ (touched s i).stack = false := by
  cases i
  case ret => exact .inl rfl
  case call nnn => exact .inr (.inl ⟨nnn, rfl⟩)
  all_goals exact .inr (.inr rfl)

/-- The run state an instruction that completes leaves: a wait with nothing delivered, or what it was. -/
theorem Completes.control (h : Completes s i t) :
    ((∃ x, t.run = .awaitingKey x) ∧ t.delivered = none) ∨ (t.run = s.run ∧ t.delivered = s.delivered) := by
  cases h
  case ldVxK x => exact .inl ⟨⟨x, rfl⟩, rfl⟩
  all_goals exact .inr ⟨rfl, rfl⟩

/-- A Running block that completes an instruction does not halt. -/
theorem Completes.not_halted (h : Completes s i t) (hrun : s.run = .running) (f : FaultRecord) : t.run ≠ .halted f := by
  obtain ⟨⟨x, hx⟩, -⟩ | ⟨hr, -⟩ := h.control
  · simp [hx]
  · simp [hr, hrun]

/-- Completing keeps memory canonical: a block write has been checked to fit (R54). -/
theorem Completes.mem_wf (h : Completes s i t) (hm : s.mem.wf) : t.mem.wf := by
  cases h
  case writeBytes bs hfit _ => exact Memory.wf_writeBytes hm bs hfit
  all_goals exact hm

end Sys2Proof.Machine
end

section
/-! 35_execution_cycle.md R90 to R96, 60_exceptions.md R230 to R235: what holds of every step, from what executing an
instruction can do. -/

namespace Sys2Proof.Machine

variable {s t : State}

/-! ### The next state and its frame -/

/-- Settles O11: in a Running step a fault of the fetch or of decoding is a next state, and executing an instruction
answers one. -/
theorem stepAlwaysAnswersNext : Obligations.StepAlwaysAnswersNext := by
  intro s
  cases hrun : s.run with
  | halted f => exact ⟨_, step_of_halted hrun⟩
  | awaitingKey x => exact ⟨_, step_of_awaitingKey hrun⟩
  | running =>
    cases hfetch : s.fetch with
    | none => exact ⟨_, step_of_fetch_none hrun hfetch⟩
    | some w =>
      cases hdec : decode w with
      | error e => exact ⟨_, step_of_decode_error hrun hfetch hdec⟩
      | ok i =>
        obtain ⟨t, hexec, -⟩ := exec_executes s i
        exact ⟨t, (step_of_decode_ok hrun hfetch hdec).trans hexec⟩

/-- Settles O15: an instruction takes a fault, which changes `Run` alone, or completes within its frame. -/
theorem instructionsKeepTheirFrame : Obligations.InstructionsKeepTheirFrame := by
  intro i s t h
  obtain ⟨cause, info, -, rfl⟩ | hc := exec_cases h
  · exact .inl ⟨_, rfl⟩
  · exact .inr hc.frame

/-! ### Faults -/

/-- The instruction a Running step executes (R92). -/
theorem instrAt_of_decode {w : Word} {i : Instr} (hrun : s.run = .running) (hfetch : s.fetch = some w)
    (hdec : decode w = .ok i) : instrAt s = some i := by
  simp [instrAt, hrun, hfetch, hdec, Except.toOption]

/-- Everything a Running step can do: fault in the fetch, in decoding or in the instruction, or complete it. -/
theorem step_running_cases (hrun : s.run = .running) (h : step s = .next t) :
    (s.fetch = none ∧ t = s.takeFault .fetchOutOfBounds none (.access s.pc 2 .fetch)) ∨
    (∃ w, s.fetch = some w ∧ firstRow w = none ∧ t = s.takeFault .illegalOpcode (some w) .empty) ∨
    (∃ w i, s.fetch = some w ∧ decode w = .ok i ∧
      ((∃ cause info, Faults s i cause info ∧ t = s.takeFault cause (some w) info) ∨ Completes s i t)) := by
  obtain ⟨f, hr, -⟩ | ⟨x, hr, -⟩ | ⟨-, hfetch, ht⟩ | ⟨w, e, -, hfetch, hdec, ht⟩ | ⟨w, i, -, hfetch, hdec, hexec⟩ :=
    step_cases h
  · simp [hrun] at hr
  · simp [hrun] at hr
  · exact .inl ⟨hfetch, ht⟩
  · exact .inr (.inl ⟨w, hfetch, (firstRow_eq_none_iff w).2 ⟨e, hdec⟩, ht⟩)
  · obtain ⟨henc, -⟩ := encodeUndoesDecode w i hdec
    exact .inr (.inr ⟨w, i, hfetch, hdec, henc ▸ exec_cases hexec⟩)

/-- What a step leaves, by what became of the instruction: none was executed, or a fault was taken from the state before
with the word fetched, or one completed. -/
inductive Steps (s : State) : State → Prop where
  | idle (hrun : s.run ≠ .running) : Steps s s
  | waitEnds (x : RegIx) (k : KeyIx) :
      Steps s (((s.setReg x (BitVec.ofNat 8 k.val)).setDelivered none).setRun .running)
  | faults (cause : FaultCause) (info : FaultInfo) (hrun : s.run = .running) : Steps s (s.takeFault cause s.fetch info)
  | completes {i : Instr} {t : State} (hrun : s.run = .running) (hpc : s.pc.toNat + 2 ≤ 4096)
      (hi : instrAt s = some i) (hc : Completes s i t) : Steps s t

/-- Everything a step can do. -/
theorem steps_of_step (h : step s = .next t) : Steps s t := by
  cases hrun : s.run with
  | halted f =>
    rw [step_of_halted hrun, Host.Outcome.next.injEq] at h
    exact h ▸ .idle (by simp [hrun])
  | awaitingKey x =>
    rw [step_of_awaitingKey hrun, Host.Outcome.next.injEq] at h
    obtain ⟨-, e⟩ | ⟨k, -, e⟩ := s.waitStep_cases x
    · have hne : s.run ≠ .running := by simp [hrun]
      rw [← h, e]
      exact .idle hne
    · rw [← h, e]
      exact .waitEnds x k
  | running =>
    obtain ⟨hfetch, rfl⟩ | ⟨w, hfetch, -, rfl⟩ | ⟨w, i, hfetch, hdec, ⟨cause, info, -, rfl⟩ | hc⟩ :=
      step_running_cases hrun h
    · exact hfetch ▸ .faults _ _ hrun
    · exact hfetch ▸ .faults _ _ hrun
    · exact hfetch ▸ .faults _ _ hrun
    · have hpc : s.pc.toNat + 2 ≤ 4096 := Nat.le_of_not_lt fun hlt => by simp [State.fetch_none hlt] at hfetch
      exact .completes hrun hpc (instrAt_of_decode hrun hfetch hdec) hc

/-- A state that took a fault holds its record. -/
theorem eq_record_of_takeFault {cause : FaultCause} {opcode : Option Word} {info : FaultInfo} {f : FaultRecord}
    (h : (s.takeFault cause opcode info).run = .halted f) :
    f = { cause := cause, pc := s.pc, opcode := opcode, info := info } :=
  (RunState.halted.inj h).symm

/-- Settles O12: whichever fault the step takes, it takes it from the state before, with the word fetched. -/
theorem faultsArePrecise : Obligations.FaultsArePrecise := by
  intro s t f h ht
  cases steps_of_step h
  case idle => exact .inl rfl
  case waitEnds => cases ht
  case faults cause info hrun => exact .inr ⟨hrun, eq_record_of_takeFault ht ▸ ⟨rfl, rfl, rfl⟩⟩
  case completes hrun _ _ hc => exact absurd ht (hc.not_halted hrun f)

/-- Settles O13: each way a Running step can fault gives its cause and condition. -/
theorem faultCausesAreExact : Obligations.FaultCausesAreExact := by
  intro s t f hrun h ht
  obtain ⟨hfetch, rfl⟩ | ⟨w, hfetch, hrow, rfl⟩ | ⟨w, i, hfetch, hdec, ⟨cause, info, hf, rfl⟩ | hc⟩ :=
    step_running_cases hrun h
  · rw [eq_record_of_takeFault ht]
    have hpc : ¬ s.pc.toNat + 2 ≤ 4096 := fun hle => by simp [State.fetch_some hle] at hfetch
    exact ⟨by omega, rfl⟩
  · rw [eq_record_of_takeFault ht]
    exact ⟨⟨w, hfetch, hrow⟩, rfl⟩
  · rw [eq_record_of_takeFault ht]
    have hi := instrAt_of_decode hrun hfetch hdec
    cases hf
    case ret hsp => exact ⟨hi, hsp, rfl⟩
    case call nnn hsp => exact ⟨⟨nnn, hi⟩, hsp, rfl⟩
    case drw x y n hout => exact ⟨_, _, rfl, hout, .inl ⟨x, y, n, hi, rfl, rfl⟩⟩
    case ldB x hout => exact ⟨_, _, rfl, hout, .inr (.inl ⟨x, hi, rfl, rfl⟩)⟩
    case storeRegs x hout => exact ⟨_, _, rfl, hout, .inr (.inr (.inl ⟨x, hi, rfl, rfl⟩))⟩
    case loadRegs x hout => exact ⟨_, _, rfl, hout, .inr (.inr (.inr ⟨x, hi, rfl, rfl⟩))⟩
    case skp x hk => exact ⟨x, .inl hi, hk, rfl⟩
    case sknp x hk => exact ⟨x, .inr hi, hk, rfl⟩
  · exact absurd ht (hc.not_halted hrun f)

/-! ### The output (R93) -/

/-- Row 23 is the only one of family D. -/
theorem fieldOp_tableRows_eq_D : ∀ n < tableRows.length, fieldOp (tableRows.getD n (0, 0)).1 = 0xD ↔ n = 23 := by decide

/-- Dxyn, which has row 23, is the only instruction that signals a redraw. -/
theorem signalsRedraw_eq (i : Instr) : signalsRedraw i = decide (i.row = 23) := by cases i <;> rfl

/-- An instruction's word is of its row's family (R74). -/
theorem fieldOp_row (i : Instr) : fieldOp (tableRows.getD i.row (0, 0)).1 = fieldOp (encode i) := by
  have hmem : tableRows.getD i.row (0, 0) ∈ tableRows := by
    rw [List.getD_eq_getElem tableRows _ i.row_lt]
    exact List.getElem_mem _
  exact fieldOp_eq_of_rowApplies hmem (rowApplies_encode i)

/-- A decoded word signals a redraw exactly when it is of family D. -/
theorem signalsRedraw_of_decode {w : Word} {i : Instr} (h : decode w = .ok i) :
    signalsRedraw i = decide (w.toNat / 4096 = 0xD) := by
  obtain ⟨henc, -⟩ := encodeUndoesDecode w i h
  rw [signalsRedraw_eq, decide_eq_decide, ← fieldOp_tableRows_eq_D _ i.row_lt, fieldOp_row, henc, fieldOp_eq]

/-- Settles O14: a Running step that does not halt executes an instruction, whose redraw signal is its word's family. -/
theorem redrawExactlyOnDraw : Obligations.RedrawExactlyOnDraw := by
  refine ⟨fun s t w hrun hfetch h ht => ?executed, fun s x hrun => ?wait, fun s f hrun => ?halted,
    fun s t f hrun h ht => ?faulted, fun c hc => ?host⟩
  case executed =>
    cases hdec : decode w with
    | error e =>
      rw [step_of_decode_error hrun hfetch hdec, Host.Outcome.next.injEq] at h
      exact absurd (by rw [← h]; rfl) (ht _)
    | ok i =>
      rw [step_of_decode_ok hrun hfetch hdec] at h
      rw [stepOutput_of_exec hrun hfetch hdec h ht, signalsRedraw_of_decode hdec]
  case wait => simp only [stepOutput, hrun]
  case halted => simp only [stepOutput, hrun]
  case faulted =>
    rw [step_of_running hrun] at h
    simp only [stepOutput, hrun, h, ht, outputAfter]
  case host =>
    obtain ⟨t, ht⟩ := stepAlwaysAnswersNext c.block
    exact ⟨t, ht, by simp only [Session.apply, Session.step, ht, stepReply_of_not_halted hc]⟩

end Sys2Proof.Machine
end

section
/-! 10_state.md R24, R45: the two invariants are kept by every step. -/

namespace Sys2Proof.Machine

variable {s t : State} {i : Instr}

/-! ### Canonical memory and `Delivered` (R45) -/

/-- Outside a wait nothing is delivered. -/
theorem DeliveredOnlyInWait.eq_none (h : DeliveredOnlyInWait s) (hrun : ∀ x, s.run ≠ .awaitingKey x) :
    s.delivered = none :=
  Classical.byContradiction fun hd => (h hd).elim hrun

/-- With nothing delivered the invariant asks for canonical memory alone. -/
theorem Inv.of_delivered_none (hm : s.mem.wf) (hd : s.delivered = none) : Inv s := ⟨hm, fun h => absurd hd h⟩

/-- Taking a fault from a Running state keeps the invariant. -/
theorem Inv.takeFault (h : Inv s) (hrun : s.run = .running) (cause : FaultCause) (opcode : Option Word)
    (info : FaultInfo) : Inv (s.takeFault cause opcode info) := by
  obtain ⟨hm, hd⟩ := h
  exact .of_delivered_none hm (hd.eq_none (by simp [hrun]))

/-- An instruction that completes leaves `Delivered` none, as it was or by entering a wait. -/
theorem Inv.completes (h : Inv s) (hrun : s.run = .running) (hc : Completes s i t) : Inv t := by
  obtain ⟨hm, hd⟩ := h
  have hnone : s.delivered = none := hd.eq_none (by simp [hrun])
  obtain ⟨-, hw⟩ | ⟨-, hsame⟩ := hc.control
  · exact .of_delivered_none (hc.mem_wf hm) hw
  · exact .of_delivered_none (hc.mem_wf hm) (hsame.trans hnone)

/-- Settles O58: the end of a wait and a fault write no memory and leave nothing delivered, as does an instruction that
completes, whose block writes have been checked. -/
theorem stepKeepsInvariant : Obligations.StepKeepsInvariant := by
  intro s t hinv h
  cases steps_of_step h
  case idle => exact hinv
  case waitEnds =>
    obtain ⟨hm, -⟩ := hinv
    exact .of_delivered_none hm rfl
  case faults hrun => exact hinv.takeFault hrun _ _ _
  case completes hrun _ _ hc => exact hinv.completes hrun hc

/-! ### The bound on `PC` (R24) -/

/-- A change that leaves `PC` and the stack alone keeps the bound. -/
theorem PcBounded.of_eq (h : PcBounded s) (hpc : t.pc = s.pc) (hstack : t.stack = s.stack) : PcBounded t := by
  obtain ⟨pc, stack⟩ := h
  exact ⟨hpc ▸ pc, fun j => by simp only [hstack, stack j]⟩

/-- After a fetch inside memory the next word's address does not wrap. -/
theorem pc_add_toNat (hpc : s.pc.toNat + 2 ≤ 4096) {k : Word} (hk : k.toNat ≤ 4) :
    (s.pc + k).toNat = s.pc.toNat + k.toNat := by
  rw [BitVec.toNat_add]; omega

theorem pc_advance_le (hpc : s.pc.toNat + 2 ≤ 4096) : (s.pc + 2).toNat ≤ 0x1000 := by
  rw [pc_add_toNat hpc (by decide)]; exact hpc

theorem PcTarget.le {a : Word} (ha : PcTarget s a) (hpc : s.pc.toNat + 2 ≤ 4096) : a.toNat ≤ 0x10FE := by
  obtain rfl | rfl | h := ha
  · exact (pc_advance_le hpc).trans (by decide)
  · rw [pc_add_toNat hpc (by decide), show (4 : Word).toNat = 4 from rfl]
    omega
  · exact h

/-- An instruction that completes after a fetch inside memory keeps the bound: it sets `PC` to a target, or exchanges it
with the stack. -/
theorem PcBounded.completes (h : PcBounded s) (hpc : s.pc.toNat + 2 ≤ 4096) (hc : Completes s i t) : PcBounded t := by
  obtain ⟨-, hstack⟩ := h
  have advanced : (s.pc + 2).toNat ≤ 0x10FE := (pc_advance_le hpc).trans (by decide)
  cases hc
  case setPc a ha _ => exact ⟨ha.le hpc, hstack⟩
  case ret hsp =>
    have htop : s.top.toNat ≤ 0x1000 := hstack ⟨s.sp.val - 1, by omega⟩
    exact ⟨htop.trans (by decide), hstack⟩
  case call nnn hsp =>
    refine ⟨(PcTarget.zextNnn s nnn).le hpc, fun j => ?_⟩
    rw [State.setPc_stack, State.push_stack_getElem, State.advance_pc, State.advance_stack]
    split
    · exact pc_advance_le hpc
    · exact hstack j
  all_goals exact ⟨advanced, hstack⟩

/-- Settles O60: an instruction is executed only when its two bytes lie in memory, so `PC` is small before it; every
other step leaves `PC` and the stack alone. -/
theorem stepKeepsPcBounded : Obligations.StepKeepsPcBounded := by
  intro s t hb h
  cases steps_of_step h
  case idle => exact hb
  case waitEnds => exact hb.of_eq rfl rfl
  case faults => exact hb.of_eq rfl rfl
  case completes _ hpc _ hc => exact hb.completes hpc hc

end Sys2Proof.Machine
end

section
/-! 41_control_flow.md R132: between a CALL and its RET the stack below the return address is left alone. -/

namespace Sys2Proof.Machine

variable {s t u : State}

/-! ### One step, by the instruction it executes -/

/-- A step that executes an instruction answers what `exec` of it answers. -/
theorem step_of_instrAt {i : Instr} (h : instrAt s = some i) : step s = exec i s := by
  cases hrun : s.run with
  | halted f => simp [instrAt, hrun] at h
  | awaitingKey x => simp [instrAt, hrun] at h
  | running =>
    obtain ⟨w, hfetch, hdec⟩ : ∃ w, s.fetch = some w ∧ (decode w).toOption = some i := by
      simpa [instrAt, hrun, Option.bind_eq_some_iff] using h
    cases hd : decode w with
    | error e => simp [hd, Except.toOption] at hdec
    | ok j =>
      obtain rfl : j = i := by simpa [hd, Except.toOption] using hdec
      exact step_of_decode_ok hrun hfetch hd

/-- The step that executes a CALL on a stack with room pushes the address after it (R126). -/
theorem step_call {n : Addr12} (hi : instrAt s = some (.call n)) (hsp : s.sp.val < 16) (h : step s = .next t) :
    t.sp.val = s.sp.val + 1 ∧
      ∀ j : Fin 16, t.stack[j.val] = if j.val = s.sp.val then s.pc + 2 else s.stack[j.val] := by
  obtain ⟨-, pushes, -⟩ := callPushesReturnAddress
  obtain ⟨u, hexec, -, sp, slots, -⟩ := pushes n s hsp
  rw [step_of_instrAt hi, hexec, Host.Outcome.next.injEq] at h
  exact h ▸ ⟨sp, slots⟩

/-- The step that executes a RET goes to the topmost return address and keeps the slots (R123). -/
theorem step_ret {j : Fin 16} (hi : instrAt s = some .ret) (hsp : s.sp.val = j.val + 1) (h : step s = .next t) :
    t.pc = s.stack[j.val] ∧ t.sp.val = j.val ∧ t.stack = s.stack := by
  obtain ⟨-, pops, -⟩ := retPopsReturnAddress
  obtain ⟨u, hexec, pc, sp, stack, -⟩ := pops s j hsp
  rw [step_of_instrAt hi, hexec, Host.Outcome.next.injEq] at h
  exact h ▸ ⟨pc, sp, stack⟩

/-- A step that executes neither CALL nor RET leaves the stack alone, whether it faults, waits or completes. -/
theorem step_quiet (hcall : ∀ n, instrAt s ≠ some (.call n)) (hret : instrAt s ≠ some .ret) (h : step s = .next t) :
    t.stack = s.stack ∧ t.sp = s.sp := by
  cases steps_of_step h
  case idle => exact ⟨rfl, rfl⟩
  case waitEnds => exact ⟨rfl, rfl⟩
  case faults => exact ⟨rfl, rfl⟩
  case completes i _ _ hi hc =>
    obtain rfl | ⟨n, rfl⟩ | hstack := touched_stack s i
    · exact absurd hi hret
    · exact absurd hi (hcall n)
    · obtain ⟨-, -, keeps, -⟩ := hc.frame
      exact keeps hstack

/-! ### Matched runs -/

/-- From `s` to `t` the stack is as deep as before, and its entries are the same. -/
def StackKept (s t : State) : Prop := t.sp = s.sp ∧ ∀ j : Fin 16, j.val < s.sp.val → t.stack[j.val] = s.stack[j.val]

theorem StackKept.refl (s : State) : StackKept s s := ⟨rfl, fun _ _ => rfl⟩

theorem StackKept.trans (hst : StackKept s t) (htu : StackKept t u) : StackKept s u := by
  obtain ⟨sp, slots⟩ := hst
  obtain ⟨sp', slots'⟩ := htu
  exact ⟨sp'.trans sp, fun j hj => (slots' j (sp ▸ hj)).trans (slots j hj)⟩

/-- The entries that a CALL found are below the one it pushed, so a run that keeps the stack after it, and then a RET,
keep them; and the RET goes to the address pushed. -/
theorem call_then_ret {v w : State} {n : Addr12} (hcall : instrAt s = some (.call n)) (hsp : s.sp.val < 16)
    (hst : step s = .next t) (kept : StackKept t v) (hret : instrAt v = some .ret) (hvw : step v = .next w) :
    StackKept s w ∧ w.pc = s.pc + 2 := by
  let slot : Fin 16 := ⟨s.sp.val, hsp⟩
  obtain ⟨tsp, pushed⟩ := step_call hcall hsp hst
  obtain ⟨vsp, slots⟩ := kept
  obtain ⟨wpc, wsp, wstack⟩ := step_ret (j := slot) hret (vsp ▸ tsp) hvw
  refine ⟨⟨Fin.ext wsp, fun j hj => ?below⟩, ?target⟩
  case below =>
    calc w.stack[j.val] = v.stack[j.val] := by simp only [wstack]
      _ = t.stack[j.val] := slots j (by omega)
      _ = s.stack[j.val] := (pushed j).trans (if_neg (Nat.ne_of_lt hj))
  case target =>
    calc w.pc = v.stack[slot.val] := wpc
      _ = t.stack[slot.val] := slots slot (tsp ▸ Nat.lt_succ_self _)
      _ = s.pc + 2 := (pushed slot).trans (if_pos rfl)

/-- A run whose calls are matched keeps the stack it began with. -/
theorem CallsMatched.stackKept (h : CallsMatched s t) : StackKept s t := by
  induction h with
  | none s => exact .refl s
  | quiet _ hcall hret hstep ih =>
    obtain ⟨stack, sp⟩ := step_quiet hcall hret hstep
    exact ih.trans ⟨sp, fun j _ => by simp only [stack]⟩
  | nested _ hcall hsp hstep _ hret hstep' ih inner =>
    exact ih.trans (call_then_ret hcall hsp hstep inner hret hstep').1

/-- Settles O30: the run between is one that keeps the stack, so the RET pops the address its CALL pushed. -/
theorem returnGoesBehindItsCall : Obligations.ReturnGoesBehindItsCall := by
  intro s t u v n hcall hsp hst hmatched hret huv
  obtain ⟨⟨sp, -⟩, hpc⟩ := call_then_ret hcall hsp hst hmatched.stackKept hret huv
  exact ⟨hpc, sp⟩

end Sys2Proof.Machine
end

section
/-! 10_state.md R29: no step reads `ST`. Two executions are compared, from states that differ only in `ST`. -/

namespace Sys2Proof.Machine

/-! ### Outcomes that differ only in `ST` -/

/-- Both outcomes are next states, which agree but for `ST`. -/
def AgreeButSt (o p : Host.Outcome State Fault Refusal) : Prop :=
  ∃ t u, o = .next t ∧ p = .next u ∧ u.setSt t.st = t

theorem AgreeButSt.next {t u : State} (h : u.setSt t.st = t) : AgreeButSt (.next t) (.next u) := ⟨t, u, rfl, rfl, h⟩

variable (s : State) (b : Byte)

/-- A fault records nothing of `ST`. -/
theorem agreeButSt_takeFault (cause : FaultCause) (opcode : Option Word) (info : FaultInfo) :
    AgreeButSt (.next (s.takeFault cause opcode info)) (.next ((s.setSt b).takeFault cause opcode info)) := .next rfl

/-- The range check reads `I` alone. -/
theorem agreeButSt_checkedAtI (w : Word) (len : Nat) (kind : AccessKind) {done done' : State}
    (h : done'.setSt done.st = done) :
    AgreeButSt (checkedAtI s w len kind done) (checkedAtI (s.setSt b) w len kind done') := by
  by_cases hfit : s.i.toNat + len ≤ 4096
  · rw [checkedAtI_ok hfit, checkedAtI_ok (s := s.setSt b) hfit]
    exact .next h
  · rw [checkedAtI_fault (Nat.lt_of_not_le hfit), checkedAtI_fault (s := s.setSt b) (Nat.lt_of_not_le hfit)]
    exact agreeButSt_takeFault s b _ _ _

/-- The key check reads one register and the keys. -/
theorem agreeButSt_checkedKey (w : Word) (x : RegIx) {done done' : Bool → State}
    (h : ∀ c, (done' c).setSt (done c).st = done c) :
    AgreeButSt (checkedKey s w x done) (checkedKey (s.setSt b) w x done') := by
  by_cases hk : (s.reg x).toNat < 16
  · rw [checkedKey_of_lt hk, checkedKey_of_lt (s := s.setSt b) hk]
    exact .next (h _)
  · rw [checkedKey_of_le (Nat.le_of_not_lt hk), checkedKey_of_le (s := s.setSt b) (Nat.le_of_not_lt hk)]
    exact agreeButSt_takeFault s b _ _ _

/-- A skip reads nothing of `ST`. -/
theorem setSt_skipIf (c : Bool) :
    ((s.setSt b).advance.skipIf c).setSt (s.advance.skipIf c).st = s.advance.skipIf c := by
  cases c <;> rfl

/-- No instruction reads `ST`. -/
theorem exec_agreeButSt (i : Instr) : AgreeButSt (exec i s) (exec i (s.setSt b)) := by
  cases i
  case ret =>
    by_cases hsp : s.sp.val = 0
    · rw [exec_ret_of_eq hsp, exec_ret_of_eq (s := s.setSt b) hsp]
      exact agreeButSt_takeFault s b _ _ _
    · rw [exec_ret_of_ne hsp, exec_ret_of_ne (s := s.setSt b) hsp]
      exact .next rfl
  case call nnn =>
    by_cases hsp : s.sp.val = 16
    · rw [exec_call_of_eq hsp, exec_call_of_eq (s := s.setSt b) hsp]
      exact agreeButSt_takeFault s b _ _ _
    · rw [exec_call_of_ne hsp, exec_call_of_ne (s := s.setSt b) hsp]
      exact .next rfl
  case seImm | sneImm | seReg | sneReg => exact .next (setSt_skipIf s b _)
  case drw | ldB | storeRegs | loadRegs => exact agreeButSt_checkedAtI s b _ _ _ rfl
  case skp | sknp => exact agreeButSt_checkedKey s b _ _ fun _ => setSt_skipIf s b _
  all_goals exact .next rfl

/-- No step reads `ST`. -/
theorem step_agreeButSt : AgreeButSt (step s) (step (s.setSt b)) := by
  cases hrun : s.run with
  | halted f =>
    rw [step_of_halted hrun, step_of_halted (s := s.setSt b) hrun]
    exact .next rfl
  | awaitingKey x =>
    rw [step_of_awaitingKey hrun, step_of_awaitingKey (s := s.setSt b) hrun]
    cases hd : s.delivered with
    | none =>
      rw [State.waitStep_of_none hd, State.waitStep_of_none (s := s.setSt b) hd]
      exact .next rfl
    | some k =>
      rw [State.waitStep_of_some hd, State.waitStep_of_some (s := s.setSt b) hd]
      exact .next rfl
  | running =>
    cases hfetch : s.fetch with
    | none =>
      rw [step_of_fetch_none hrun hfetch, step_of_fetch_none (s := s.setSt b) hrun hfetch]
      exact agreeButSt_takeFault s b _ _ _
    | some w =>
      cases hdec : decode w with
      | error e =>
        rw [step_of_decode_error hrun hfetch hdec, step_of_decode_error (s := s.setSt b) hrun hfetch hdec]
        exact agreeButSt_takeFault s b _ _ _
      | ok i =>
        rw [step_of_decode_ok hrun hfetch hdec, step_of_decode_ok (s := s.setSt b) hrun hfetch hdec]
        exact exec_agreeButSt s b i

/-- The output of a step is read off the run state it leaves and the word it fetched (R93, R94). -/
theorem stepOutput_of_step {s t : State} (hrun : s.run = .running) (h : step s = .next t) :
    stepOutput s = outputAfter s.fetch t.run := by
  rw [step_of_running hrun] at h
  simp only [stepOutput, hrun, h]

/-- The two steps leave the same run state, of which the output is read. -/
theorem stepOutput_setSt : stepOutput (s.setSt b) = stepOutput s := by
  obtain ⟨t, u, ht, hu, htu⟩ := step_agreeButSt s b
  cases hrun : s.run with
  | halted f => simp only [stepOutput, State.setSt_run, hrun]
  | awaitingKey x => simp only [stepOutput, State.setSt_run, hrun]
  | running =>
    rw [stepOutput_of_step hrun ht, stepOutput_of_step (s := s.setSt b) hrun hu, ← htu]
    rfl

/-- Settles O49: the two steps agree but for `ST`. -/
theorem soundTimerIsUnobservable : Obligations.SoundTimerIsUnobservable :=
  fun s b => ⟨stepOutput_setSt s b, step_agreeButSt s b⟩

end Sys2Proof.Machine
end

section
/-! 40_display.md R101, R108: which cells `Draw` flips. A sprite no higher than the grid falls on each cell with at most
one of its pixels, the one at the cell's offsets from the start. -/

namespace Sys2Proof.Machine

/-- The distance from row `y0` to row `r`, walking down and wrapping (R101). -/
def rowOffset (y0 : Nat) (r : Fin 32) : Nat := (r.val + 32 - y0 % 32) % 32

/-- The pixel of a sprite at a row and a column of its own, false outside it. -/
def spritePixel (bs : List Byte) (row bit : Nat) : Bool := decide (bit < 8) && bs[row]?.any (spriteBit · bit)

theorem spritePixel_eq_true_iff (bs : List Byte) (row bit : Nat) :
    spritePixel bs row bit = true ↔ ∃ b, bs[row]? = some b ∧ bit < 8 ∧ b.getLsbD (7 - bit) = true := by
  simp only [spritePixel, Bool.and_eq_true, decide_eq_true_eq, Option.any_eq_true, spriteBit]
  exact ⟨fun ⟨h8, b, hb, hp⟩ => ⟨b, hb, h8, hp⟩, fun ⟨b, hb, h8, hp⟩ => ⟨h8, b, hb, hp⟩⟩

/-- A row is at offset 0 exactly when it is the start's own. -/
theorem wrapRow_eq_iff (y0 : Nat) (r : Fin 32) : r = wrapRow y0 ↔ rowOffset y0 r = 0 := by
  have := r.isLt
  simp only [Fin.ext_iff, wrapRow, Fin.ofNat, rowOffset]
  omega

/-- One row further down every offset is one less, and 0 becomes the last. -/
theorem rowOffset_succ (y0 : Nat) (r : Fin 32) :
    rowOffset (y0 + 1) r = if rowOffset y0 r = 0 then 31 else rowOffset y0 r - 1 := by
  have := r.isLt
  split <;> simp only [rowOffset] at * <;> omega

/-- A row and a column of the sprite fall on a cell exactly when they are its offsets (R101). -/
theorem rowOffset_eq_iff {y0 row : Nat} (h : row < 32) (r : Fin 32) :
    r.val = (y0 + row) % 32 ↔ rowOffset y0 r = row := by
  have := r.isLt
  simp only [rowOffset]
  omega

theorem colOffset_eq_iff {x0 bit : Nat} (h : bit < 8) (c : Fin 64) :
    c.val = (x0 + bit) % 64 ↔ colOffset x0 c = bit := by
  rw [← wrapCol_eq_iff h, Fin.ext_iff]
  rfl

/-- The cells after the rows of a sprite: each is changed by the pixel at its offsets. The row at offset 0 is drawn first
and never again, the sprite having at most 32 rows. -/
theorem drawRows_get (x0 y : Nat) (bs : List Byte) (d : Grid × Bool) (r : Fin 32) (c : Fin 64) (h : bs.length ≤ 32) :
    (drawRows x0 y bs d).1.get r c = (d.1.get r c ^^ spritePixel bs (rowOffset y r) (colOffset x0 c)) := by
  induction bs generalizing y d with
  | nil => simp [drawRows, spritePixel]
  | cons b bs ih =>
    rw [List.length_cons] at h
    rw [drawRows, ih (y + 1) _ (Nat.le_of_succ_le h), rowOffset_succ]
    by_cases hr : rowOffset y r = 0
    · have rest : bs[31]? = none := List.getElem?_eq_none (Nat.le_of_succ_le_succ h)
      simp [hr, rest, spritePixel, drawRow_get, wrapRow_eq_iff]
    · obtain ⟨k, hk⟩ := Nat.exists_eq_succ_of_ne_zero hr
      rw [drawRow_get_of_ne x0 (mt (wrapRow_eq_iff y r).1 hr)]
      simp [hk, spritePixel]

/-- The cells after `Draw` (R101). -/
theorem draw_get (x0 y0 : Nat) {bs : List Byte} (g : Grid) (r : Fin 32) (c : Fin 64) (h : bs.length ≤ 15) :
    (draw x0 y0 bs g).1.get r c = (g.get r c ^^ spritePixel bs (rowOffset y0 r) (colOffset x0 c)) :=
  drawRows_get x0 y0 bs (g, false) r c (h.trans (by decide))

/-- Settles O17: a cell changes exactly when the pixel at its offsets is set, and those are the only row and column of
the sprite that fall on it. -/
theorem drawFlipsSpriteCells : Obligations.DrawFlipsSpriteCells := by
  intro x0 y0 bs g r c h
  have flips : (draw x0 y0 bs g).1.get r c ≠ g.get r c ↔ spritePixel bs (rowOffset y0 r) (colOffset x0 c) = true := by
    rw [draw_get x0 y0 g r c h]
    cases g.get r c <;> simp
  rw [flips, spritePixel_eq_true_iff]
  constructor
  · rintro ⟨b, hb, h8, hp⟩
    have hrow : rowOffset y0 r < 32 := Nat.mod_lt _ (by decide)
    exact ⟨_, _, b, hb, h8, (rowOffset_eq_iff hrow r).2 rfl, (colOffset_eq_iff h8 c).2 rfl, hp⟩
  · rintro ⟨row, bit, b, hb, h8, hr, hc, hp⟩
    obtain ⟨hrow, -⟩ := List.getElem?_eq_some_iff.1 hb
    obtain rfl := (rowOffset_eq_iff (by omega) r).1 hr
    obtain rfl := (colOffset_eq_iff h8 c).1 hc
    exact ⟨b, hb, h8, hp⟩

/-- Drawing a sprite twice flips every cell twice or not at all. -/
theorem draw_draw (x0 y0 : Nat) {bs : List Byte} (g : Grid) (h : bs.length ≤ 15) :
    (draw x0 y0 bs (draw x0 y0 bs g).1).1 = g :=
  Grid.ext_cells fun r c => by rw [draw_get x0 y0 _ r c h, draw_get x0 y0 g r c h, Bool.xor_assoc, Bool.xor_self,
    Bool.xor_false]

/-- Settles O19: the cells the second draw erases are those the first one set. -/
theorem drawTwiceRestoresGrid : Obligations.DrawTwiceRestoresGrid := by
  intro x0 y0 bs g h
  refine ⟨draw_draw x0 y0 g h, ?_⟩
  rw [drawReportsErasedCells x0 y0 bs _ h, draw_draw x0 y0 g h]
  simp only [and_comm]

end Sys2Proof.Machine
end

section
/-! 50_host_interface.md R212 to R220: what each host command answers. -/

namespace Sys2Proof.Machine

variable (c : Session)

/-! ### The commands on a block -/

theorem State.isHalted_eq_false_iff (s : State) : s.isHalted = false ↔ ∀ f, s.run ≠ .halted f := by
  rw [Bool.eq_false_iff, ne_eq, State.isHalted_iff, not_exists]

theorem State.decrementTimers_of_halted {s : State} (h : s.isHalted = true) : s.decrementTimers = s := if_pos h

theorem State.decrementTimers_of_not_halted {s : State} (h : s.isHalted = false) :
    s.decrementTimers = (s.setDt (countDown s.dt)).setSt (countDown s.st) := if_neg (Bool.eq_false_iff.1 h)

theorem State.deliverKeyPress_of_awaitingKey {s : State} {x : RegIx} (h : s.run = .awaitingKey x) (k : KeyIx) :
    s.deliverKeyPress k = s.setDelivered (some k) := by simp only [State.deliverKeyPress, h]

theorem State.deliverKeyPress_of_ne {s : State} (h : ∀ x, s.run ≠ .awaitingKey x) (k : KeyIx) :
    s.deliverKeyPress k = s := by
  cases hrun : s.run with
  | awaitingKey x => exact absurd hrun (h x)
  | running => simp only [State.deliverKeyPress, hrun]
  | halted f => simp only [State.deliverKeyPress, hrun]

theorem State.loadProgram_of_le {image : List Byte} (h : image.length ≤ 3584) (s : State) :
    s.loadProgram image = s.setMem (s.mem.writeBytes 0x200 image) := if_neg (Nat.not_lt.2 h)

theorem State.loadProgram_of_lt {image : List Byte} (h : 3584 < image.length) (s : State) :
    s.loadProgram image = s.halt (loadFault image) := if_pos h

/-! ### The commands on a session -/

theorem Session.apply_step {t : State} (h : Machine.step c.block = .next t) :
    c.apply .step = .next ({ block := t, loadOpen := false }, .stepped (stepReply c.block)) := by
  simp only [Session.apply, Session.step, h]

theorem Session.apply_decrementTimers :
    c.apply .decrementTimers = .next ({ c with block := c.block.decrementTimers }, .nothing) := rfl

theorem Session.apply_framebufferSnapshot : c.apply .framebufferSnapshot = .next (c, .grid c.block.fb) := rfl

theorem Session.apply_deliverKeyPress {key : Nat} (h : key < 16) :
    c.apply (.deliverKeyPress key) = .next ({ c with block := c.block.deliverKeyPress ⟨key, h⟩ }, .nothing) := dif_pos h

theorem Session.apply_deliverKeyPress_refused {key : Nat} (h : 16 ≤ key) :
    c.apply (.deliverKeyPress key) = .refused (.keyIdentifier key) := dif_neg (Nat.not_lt.2 h)

/-- A set with a bad key identifier is refused naming one (R218). -/
theorem Session.apply_updateKeypad_refused {pressed : List Nat} (h : ∃ k ∈ pressed, 16 ≤ k) :
    ∃ k ∈ pressed, 16 ≤ k ∧ c.apply (.updateKeypad pressed) = .refused (.keyIdentifier k) := by
  cases hfind : pressed.find? (fun k => 16 ≤ k) with
  | none =>
    obtain ⟨k, hk, hbad⟩ := h
    exact absurd hbad (by simpa using List.find?_eq_none.1 hfind k hk)
  | some k =>
    have hbad : 16 ≤ k := by simpa using List.find?_some hfind
    exact ⟨k, List.mem_of_find?_eq_some hfind, hbad, by simp only [Session.apply, Session.updateKeypad, hfind]⟩

theorem Session.apply_loadProgram_of_halted {c : Session} (h : c.block.isHalted = true) (image : List Byte) :
    c.apply (.loadProgram image) = .next (c, .nothing) := if_pos h

theorem Session.apply_loadProgram_refused {c : Session} (h : c.block.isHalted = false) (hopen : c.loadOpen = false)
    (image : List Byte) : c.apply (.loadProgram image) = .refused .loadNotAdmitted := by
  simp [Session.apply, Session.loadProgram, h, hopen]

theorem Session.apply_loadProgram {c : Session} (h : c.block.isHalted = false) (hopen : c.loadOpen = true)
    (image : List Byte) : c.apply (.loadProgram image) =
      .next ({ block := c.block.loadProgram image, loadOpen := false },
        if image.length > 3584 then .loadFaulted (loadFault image) else .nothing) := by
  simp [Session.apply, Session.loadProgram, h, hopen]

/-- A command that is not refused leaves one of these sessions (R210 to R219). -/
inductive Applied (c : Session) : Command → Session → Prop where
  | loadIgnored (image : List Byte) (h : c.block.isHalted = true) : Applied c (.loadProgram image) c
  | loaded (image : List Byte) (h : c.block.isHalted = false) (hopen : c.loadOpen = true) :
      Applied c (.loadProgram image) { block := c.block.loadProgram image, loadOpen := false }
  | stepped (t : State) (h : Machine.step c.block = .next t) : Applied c .step { block := t, loadOpen := false }
  | ticked : Applied c .decrementTimers { c with block := c.block.decrementTimers }
  | levels (pressed : List Nat) : Applied c (.updateKeypad pressed) { c with block := c.block.updateKeypad pressed }
  | pressed (key : KeyIx) : Applied c (.deliverKeyPress key.val) { c with block := c.block.deliverKeyPress key }
  | snapshot : Applied c .framebufferSnapshot c

/-- Everything a command can do when it answers a next session. -/
theorem Session.apply_cases {c d : Session} {cmd : Command} {r : Reply} (h : c.apply cmd = .next (d, r)) :
    Applied c cmd d := by
  cases cmd with
  | loadProgram image =>
    cases hh : c.block.isHalted with
    | true =>
      rw [Session.apply_loadProgram_of_halted hh] at h
      cases h
      exact .loadIgnored image hh
    | false =>
      cases hopen : c.loadOpen with
      | true =>
        rw [Session.apply_loadProgram hh hopen] at h
        cases h
        exact .loaded image hh hopen
      | false =>
        rw [Session.apply_loadProgram_refused hh hopen] at h
        cases h
  | step =>
    obtain ⟨t, ht⟩ := stepAlwaysAnswersNext c.block
    rw [Session.apply_step c ht] at h
    cases h
    exact .stepped t ht
  | decrementTimers =>
    cases h
    exact .ticked
  | updateKeypad pressed =>
    by_cases hbad : ∃ k ∈ pressed, 16 ≤ k
    · obtain ⟨k, -, -, hk⟩ := c.apply_updateKeypad_refused hbad
      rw [hk] at h
      cases h
    · rw [c.apply_updateKeypad (by simpa using hbad)] at h
      cases h
      exact .levels pressed
  | deliverKeyPress key =>
    by_cases hk : key < 16
    · rw [c.apply_deliverKeyPress hk] at h
      cases h
      exact .pressed ⟨key, hk⟩
    · rw [c.apply_deliverKeyPress_refused (Nat.le_of_not_lt hk)] at h
      cases h
  | framebufferSnapshot =>
    cases h
    exact .snapshot

end Sys2Proof.Machine
end

section
/-! 50_host_interface.md R212 to R220: the obligations of single commands. -/

namespace Sys2Proof.Machine

/-- Two timers counted are within a frame that may write both. -/
theorem frame_setDt_setSt (s : State) (b b' : Byte) : Frame s ((s.setDt b).setSt b') { dt := true, st := true } := by
  simp [Frame]

/-- Settles O50: a block that is not Halted counts both timers down and changes nothing else. -/
theorem decrementTimersSaturates : Obligations.DecrementTimersSaturates := by
  intro c
  refine ⟨_, c.apply_decrementTimers, rfl, fun hh => State.decrementTimers_of_halted hh, fun hr => ?counted⟩
  case counted =>
    dsimp only
    rw [State.decrementTimers_of_not_halted hr]
    exact ⟨countDown_toNat _, countDown_toNat _, rfl, frame_setDt_setSt _ _ _⟩

/-- Settles O52: a key press is recorded in a wait alone. -/
theorem deliverKeyPressOnlyInWait : Obligations.DeliverKeyPressOnlyInWait :=
  fun c k => ⟨_, c.apply_deliverKeyPress k.isLt, rfl, fun _ hrun => State.deliverKeyPress_of_awaitingKey hrun k,
    fun hrun => State.deliverKeyPress_of_ne hrun k⟩

/-- Settles O53: an admitted load is a block write at 0x200, or the fault of an image that is too long. -/
theorem loadProgramWritesImage : Obligations.LoadProgramWritesImage := by
  intro c image hh hopen hm
  have happly := Session.apply_loadProgram hh hopen image
  refine ⟨fun hfit => ?writes, fun hlong => ?faults⟩
  case writes =>
    rw [State.loadProgram_of_le hfit, if_neg (Nat.not_lt.2 hfit)] at happly
    have hin : 0x200 + image.length ≤ Config.memSize := Nat.add_le_add_left hfit 0x200
    exact ⟨_, happly, rfl, fun j hj => Memory.read_writeBytes_inside hm image hin j hj, rfl,
      frame_setMem_writeBytes _ _ _⟩
  case faults =>
    rw [State.loadProgram_of_lt hlong, if_pos hlong] at happly
    exact ⟨_, _, happly, rfl, rfl⟩

/-- Settles O54: the refusals are the commands' own checks, and on a block that is not Halted both a step and a load
close the load. -/
theorem brokenPreconditionsRefused : Obligations.BrokenPreconditionsRefused := by
  refine ⟨fun c _ => c.apply_updateKeypad_refused, fun c _ => c.apply_deliverKeyPress_refused,
    fun c image hh hopen => Session.apply_loadProgram_refused hh hopen image, fun c d cmd r hcmd hh h => ?closes⟩
  case closes =>
    have happlied := Session.apply_cases h
    obtain rfl | ⟨image, rfl⟩ := hcmd
    · cases happlied
      rfl
    · cases happlied
      case loadIgnored hh' => exact absurd hh' (by simp [hh])
      case loaded => rfl

/-- No command that is not refused changes a Halted block (R219). -/
theorem Applied.block_of_halted {c d : Session} {cmd : Command} {f : FaultRecord} (h : Applied c cmd d)
    (hrun : c.block.run = .halted f) : d.block = c.block := by
  have hh : c.block.isHalted = true := (State.isHalted_iff _).2 ⟨f, hrun⟩
  cases h
  case loadIgnored => rfl
  case loaded hh' _ => simp [hh] at hh'
  case stepped t ht =>
    rw [step_of_halted hrun, Host.Outcome.next.injEq] at ht
    exact ht.symm
  case ticked => exact State.decrementTimers_of_halted hh
  case levels pressed => exact State.updateKeypad_of_halted hh pressed
  case pressed key => exact State.deliverKeyPress_of_ne (s := c.block) (by simp [hrun]) key
  case snapshot => rfl

/-- On a Halted block a command answers a next session, unless it names a bad key (R218, R219). -/
theorem Session.apply_of_halted {c : Session} {f : FaultRecord} (hrun : c.block.run = .halted f) (cmd : Command) :
    (∃ p k, cmd = .updateKeypad p ∧ k ∈ p ∧ 16 ≤ k ∧ c.apply cmd = .refused (.keyIdentifier k)) ∨
    (∃ k, cmd = .deliverKeyPress k ∧ 16 ≤ k ∧ c.apply cmd = .refused (.keyIdentifier k)) ∨
    ∃ d r, c.apply cmd = .next (d, r) ∧ (cmd = .step → r = .stepped .noValue) := by
  have hh : c.block.isHalted = true := (State.isHalted_iff _).2 ⟨f, hrun⟩
  cases cmd with
  | loadProgram image => exact .inr (.inr ⟨_, _, Session.apply_loadProgram_of_halted hh image, nofun⟩)
  | step =>
    exact .inr (.inr ⟨_, _, c.apply_step (step_of_halted hrun), fun _ => congrArg Reply.stepped (stepReply_halted hh)⟩)
  | decrementTimers => exact .inr (.inr ⟨_, _, c.apply_decrementTimers, nofun⟩)
  | updateKeypad p =>
    by_cases hbad : ∃ k ∈ p, 16 ≤ k
    · obtain ⟨k, hk, hk16, hrefused⟩ := c.apply_updateKeypad_refused hbad
      exact .inl ⟨p, k, rfl, hk, hk16, hrefused⟩
    · exact .inr (.inr ⟨_, _, c.apply_updateKeypad (by simpa using hbad), nofun⟩)
  | deliverKeyPress k =>
    by_cases hk : k < 16
    · exact .inr (.inr ⟨_, _, c.apply_deliverKeyPress hk, nofun⟩)
    · exact .inr (.inl ⟨k, rfl, Nat.le_of_not_lt hk, c.apply_deliverKeyPress_refused (Nat.le_of_not_lt hk)⟩)
  | framebufferSnapshot => exact .inr (.inr ⟨_, _, c.apply_framebufferSnapshot, nofun⟩)

/-- Settles O55: a command that is not refused leaves the Halted block as it is. -/
theorem haltedIsFinal : Obligations.HaltedIsFinal := by
  refine ⟨fun c cmd f hrun => ?final, Session.apply_framebufferSnapshot⟩
  case final =>
    obtain hkeys | hkey | ⟨d, r, happly, hreply⟩ := Session.apply_of_halted hrun cmd
    · exact .inl hkeys
    · exact .inr (.inl hkey)
    · exact .inr (.inr ⟨d, r, happly, (Session.apply_cases happly).block_of_halted hrun, hreply⟩)

end Sys2Proof.Machine
end

section
/-! 10_state.md R24, R45: the invariants hold at construction, and every host command keeps the session's. -/

namespace Sys2Proof.Machine

/-! ### At construction -/

/-- At most 80 bytes are written to the reset memory, which keeps it canonical, whatever FONT is. -/
theorem inv_construct (font : List Byte) : Inv (State.construct font) := by
  have hlen : (font.take Config.fontBytes).length ≤ 80 := List.length_take_le _ _
  have hfit : 0 + (font.take Config.fontBytes).length ≤ Config.memSize := by rw [Config.memSize]; omega
  exact .of_delivered_none (Memory.wf_writeBytes Memory.wf_reset _ hfit) rfl

/-- A block Running from 0x200 with a clear stack meets the bound. -/
theorem pcBounded_reset : PcBounded State.reset :=
  ⟨by decide, fun j => by rw [State.reset_stack]; decide⟩

/-- Settles O57: construction differs from reset in memory alone. -/
theorem constructionMeetsInvariants : Obligations.ConstructionMeetsInvariants :=
  ⟨fun font => ⟨⟨inv_construct font, fun _ _ => RunState.noConfusion⟩, pcBounded_reset.of_eq rfl rfl⟩,
    .of_delivered_none Memory.wf_reset rfl, pcBounded_reset⟩

/-! ### After a command -/

variable {s : State}

/-- A change that leaves memory, `Run` and `Delivered` alone keeps the invariant. -/
theorem Inv.of_eq {t : State} (h : Inv s) (hm : t.mem = s.mem) (hrun : t.run = s.run) (hd : t.delivered = s.delivered) :
    Inv t := by
  obtain ⟨mem, delivered⟩ := h
  exact ⟨hm ▸ mem, fun hne => hrun ▸ delivered (hd ▸ hne)⟩

theorem Inv.decrementTimers (h : Inv s) : Inv s.decrementTimers := by
  cases hh : s.isHalted with
  | true => rwa [State.decrementTimers_of_halted hh]
  | false =>
    rw [State.decrementTimers_of_not_halted hh]
    exact h.of_eq rfl rfl rfl

theorem Inv.updateKeypad (h : Inv s) (pressed : List Nat) : Inv (s.updateKeypad pressed) := by
  cases hh : s.isHalted with
  | true => rwa [State.updateKeypad_of_halted hh]
  | false =>
    rw [State.updateKeypad_of_not_halted hh]
    exact h.of_eq rfl rfl rfl

theorem Inv.deliverKeyPress (h : Inv s) (k : KeyIx) : Inv (s.deliverKeyPress k) := by
  by_cases hrun : ∃ x, s.run = .awaitingKey x
  · obtain ⟨x, hx⟩ := hrun
    rw [State.deliverKeyPress_of_awaitingKey hx]
    exact ⟨h.1, fun _ => ⟨x, hx⟩⟩
  · rwa [State.deliverKeyPress_of_ne (not_exists.1 hrun)]

/-- A load outside a wait keeps the invariant: nothing is delivered there, and an image that is written fits. -/
theorem Inv.loadProgram (h : Inv s) (hrun : ∀ x, s.run ≠ .awaitingKey x) (image : List Byte) :
    Inv (s.loadProgram image) := by
  obtain ⟨mem, delivered⟩ := h
  have hnone : s.delivered = none := delivered.eq_none hrun
  by_cases hfit : image.length ≤ 3584
  · rw [State.loadProgram_of_le hfit]
    exact .of_delivered_none (Memory.wf_writeBytes mem image (Nat.add_le_add_left hfit 0x200)) hnone
  · rw [State.loadProgram_of_lt (Nat.lt_of_not_le hfit)]
    exact .of_delivered_none mem hnone

/-- Timer ticks, key levels and key presses do not change the run state. -/
theorem State.decrementTimers_run (s : State) : s.decrementTimers.run = s.run := by
  unfold State.decrementTimers
  split <;> rfl

theorem State.updateKeypad_run (s : State) (pressed : List Nat) : (s.updateKeypad pressed).run = s.run := by
  unfold State.updateKeypad
  split <;> rfl

theorem State.deliverKeyPress_run (s : State) (k : KeyIx) : (s.deliverKeyPress k).run = s.run := by
  unfold State.deliverKeyPress
  split <;> rfl

/-- Once the load is closed the session's invariant is its block's. -/
theorem SessionInv.of_closed {c : Session} (h : Inv c.block) (hclosed : c.loadOpen = false) : SessionInv c :=
  ⟨h, fun hopen => by simp [hclosed] at hopen⟩

/-- Settles O59: a step or a load closes the load, and no other command changes the run state. -/
theorem commandsKeepInvariant : Obligations.CommandsKeepInvariant := by
  intro c d cmd r ⟨hinv, hload⟩ h
  cases Session.apply_cases h
  case loadIgnored => exact ⟨hinv, hload⟩
  case loaded image _ hopen => exact .of_closed (hinv.loadProgram (hload hopen) image) rfl
  case stepped t ht => exact .of_closed (stepKeepsInvariant _ _ hinv ht) rfl
  case ticked => exact ⟨hinv.decrementTimers, fun hopen => c.block.decrementTimers_run ▸ hload hopen⟩
  case levels pressed => exact ⟨hinv.updateKeypad pressed, fun hopen => c.block.updateKeypad_run pressed ▸ hload hopen⟩
  case pressed key => exact ⟨hinv.deliverKeyPress key, fun hopen => c.block.deliverKeyPress_run key ▸ hload hopen⟩
  case snapshot => exact ⟨hinv, hload⟩

end Sys2Proof.Machine
end

section
/-! 44_timers_keypad.md R196: the key-wait, over sequences of host commands. -/

namespace Sys2Proof.Machine

/-! ### Running commands one after another -/

theorem Session.runAll_cons {c d : Session} {cmd : Command} {r : Reply} (h : c.apply cmd = .next (d, r))
    (cmds : List Command) : c.runAll (cmd :: cmds) = d.runAll cmds := by
  simp only [Session.runAll, h]

theorem Session.runAll_append {c d : Session} {cmds : List Command} (h : c.runAll cmds = .next d)
    (more : List Command) : c.runAll (cmds ++ more) = d.runAll more := by
  induction cmds generalizing c with
  | nil =>
    cases h
    rfl
  | cons cmd cmds ih =>
    cases happly : c.apply cmd with
    | next p =>
      rw [Session.runAll_cons happly] at h
      rw [List.cons_append, Session.runAll_cons happly, ih h]
    | fault f => simp [Session.runAll, happly] at h
    | refused r => simp [Session.runAll, happly] at h

/-! ### What a wait keeps -/

/-- The second session waits for a key for `V[x]`, with the first one's `PC` and registers. -/
def StillWaits (x : RegIx) (c d : Session) : Prop :=
  d.block.run = .awaitingKey x ∧ d.block.pc = c.block.pc ∧ ∀ r, d.block.reg r = c.block.reg r

theorem StillWaits.refl {x : RegIx} {c : Session} (h : c.block.run = .awaitingKey x) : StillWaits x c c :=
  ⟨h, rfl, fun _ => rfl⟩

theorem StillWaits.trans {x : RegIx} {c d e : Session} (hcd : StillWaits x c d) (hde : StillWaits x d e) :
    StillWaits x c e := by
  obtain ⟨-, pc, regs⟩ := hcd
  obtain ⟨run, pc', regs'⟩ := hde
  exact ⟨run, pc'.trans pc, fun r => (regs' r).trans (regs r)⟩

variable {x : RegIx} {c : Session}

theorem isHalted_of_awaitingKey {s : State} (h : s.run = .awaitingKey x) : s.isHalted = false :=
  (State.isHalted_eq_false_iff s).2 fun f => by simp [h]

/-- A command that delivers no key: a step, a timer tick, a snapshot, or key levels that name keys. -/
def DeliversNoKey (cmd : Command) : Prop :=
  cmd = .step ∨ cmd = .decrementTimers ∨ cmd = .framebufferSnapshot ∨ ∃ p, cmd = .updateKeypad p ∧ ∀ j ∈ p, j < 16

/-- With nothing delivered, a command that delivers no key leaves the wait (R91, R220, D24). -/
theorem apply_stillWaits (hrun : c.block.run = .awaitingKey x) (hnone : c.block.delivered = none) {cmd : Command}
    (hcmd : DeliversNoKey cmd) : ∃ d r, c.apply cmd = .next (d, r) ∧ StillWaits x c d ∧ d.block.delivered = none := by
  have hh := isHalted_of_awaitingKey hrun
  obtain rfl | rfl | rfl | ⟨p, rfl, hp⟩ := hcmd
  case inl =>
    have hstep : step c.block = .next c.block := by rw [step_of_awaitingKey hrun, State.waitStep_of_none hnone]
    exact ⟨_, _, c.apply_step hstep, ⟨hrun, rfl, fun _ => rfl⟩, hnone⟩
  case inr.inl =>
    refine ⟨_, _, c.apply_decrementTimers, ?_⟩
    dsimp only
    rw [State.decrementTimers_of_not_halted hh]
    exact ⟨⟨hrun, rfl, fun _ => rfl⟩, hnone⟩
  case inr.inr.inl => exact ⟨_, _, c.apply_framebufferSnapshot, .refl hrun, hnone⟩
  case inr.inr.inr =>
    refine ⟨_, _, c.apply_updateKeypad hp, ?_⟩
    dsimp only
    rw [State.updateKeypad_of_not_halted hh]
    exact ⟨⟨hrun, rfl, fun _ => rfl⟩, hnone⟩

theorem runAll_stillWaits {cmds : List Command} (hrun : c.block.run = .awaitingKey x) (hnone : c.block.delivered = none)
    (hcmds : ∀ cmd ∈ cmds, DeliversNoKey cmd) :
    ∃ d, c.runAll cmds = .next d ∧ StillWaits x c d ∧ d.block.delivered = none := by
  induction cmds generalizing c with
  | nil => exact ⟨c, rfl, .refl hrun, hnone⟩
  | cons cmd cmds ih =>
    obtain ⟨hcmd, hcmds⟩ := List.forall_mem_cons.1 hcmds
    obtain ⟨d, r, happly, hcd, hd⟩ := apply_stillWaits hrun hnone hcmd
    obtain ⟨e, hall, hde, he⟩ := ih hcd.1 hd hcmds
    exact ⟨e, (Session.runAll_cons happly cmds).trans hall, hcd.trans hde, he⟩

/-! ### Key presses -/

/-- A key press in a wait records the key and leaves the wait as it is (R215). -/
theorem apply_press (hrun : c.block.run = .awaitingKey x) (k : KeyIx) :
    c.apply (.deliverKeyPress k.val) = .next ({ c with block := c.block.setDelivered (some k) }, .nothing) := by
  rw [c.apply_deliverKeyPress k.isLt, State.deliverKeyPress_of_awaitingKey hrun]

theorem runAll_presses_stillWaits (hrun : c.block.run = .awaitingKey x) (presses : List KeyIx) :
    ∃ d, c.runAll (presses.map fun j => .deliverKeyPress j.val) = .next d ∧ StillWaits x c d := by
  induction presses generalizing c with
  | nil => exact ⟨c, rfl, .refl hrun⟩
  | cons k presses ih =>
    have happly := apply_press hrun k
    obtain ⟨d, hall, hd⟩ := ih (c := { c with block := c.block.setDelivered (some k) }) hrun
    exact ⟨d, (Session.runAll_cons happly _).trans hall, .trans ⟨hrun, rfl, fun _ => rfl⟩ hd⟩

/-- A press and a step end the wait: the key goes to `V[x]` (R91). -/
theorem runAll_press_step (hrun : c.block.run = .awaitingKey x) (k : KeyIx) :
    ∃ e, c.runAll [.deliverKeyPress k.val, .step] = .next e ∧ e.block.run = .running ∧ e.block.pc = c.block.pc ∧
      (e.block.reg x).toNat = k.val ∧ ∀ r, r ≠ x → e.block.reg r = c.block.reg r := by
  obtain ⟨-, ends⟩ := waitStepPolls (c.block.setDelivered (some k)) x hrun
  obtain ⟨t, hstep, hkey, hrunning, -, hpc, hframe⟩ := ends k rfl
  obtain ⟨others, -⟩ := hframe
  refine ⟨{ block := t, loadOpen := false }, ?_, hrunning, hpc, hkey, fun r hr => others r (by simpa using hr)⟩
  rw [Session.runAll_cons (apply_press hrun k), Session.runAll_cons (Session.apply_step _ hstep)]
  rfl

/-- Settles O48: commands that deliver no key leave the wait, presses leave it with the last key recorded, and the step
after them ends it. -/
theorem waitEndsByDeliveredKeyOnly : Obligations.WaitEndsByDeliveredKeyOnly := by
  intro c x cmds presses k hrun hnone hcmds
  obtain ⟨d, hquiet, ⟨drun, dpc, dregs⟩, dnone⟩ := runAll_stillWaits hrun hnone hcmds
  refine ⟨⟨d, hquiet, drun, dnone, dpc, dregs⟩, ?ends⟩
  case ends =>
    obtain ⟨d', hpresses, ⟨drun', dpc', dregs'⟩⟩ := runAll_presses_stillWaits drun presses
    obtain ⟨e, hlast, erun, epc, ekey, eregs⟩ := runAll_press_step drun' k
    refine ⟨e, ?_, erun, (epc.trans dpc').trans dpc, ekey, fun r hr => ?_⟩
    · rw [List.append_assoc, Session.runAll_append hquiet, Session.runAll_append hpresses, hlast]
    · rw [eregs r hr, dregs', dregs]

end Sys2Proof.Machine
end
